-- ==== Sys2Proof/Word.lean ====
section
/-! DEFINITION. The word type of the block: W = 64 bits (00_scope.md R5), bit 0 the least significant (R14). -/

namespace Sys2Proof

/-- The operand width W (R5). -/
abbrev wordBits : Nat := 64

/-- A host-visible register value: W bits, read as an unsigned number (R5, R15). -/
abbrev Word := BitVec 64

/-- One byte of a byte-level binding of the window (R58). -/
abbrev Byte := BitVec 8

end Sys2Proof
end

