-- ==== Sys2Proof/Syntax.lean ====
section
/-! DEFINITION. The syntax: the five commands of the opcode table, the register names, the Host's accesses and
program lines, and the turns of the agents. -/

namespace Sys2Proof

/-- The commands (30_encoding.md R72), one constructor per row of spec/opcode_table.json. A command word has no field
but its OPCODE (R70), so no constructor has an argument; the operands come from LA, LB and LC (R71). -/
inductive Instr where
  | isprime
  | gcd
  | modinv
  | keygen
  | modexp
deriving DecidableEq, Repr

/-- The eight host-visible registers (10_state.md R20). -/
inductive RegName where
  | cmd
  | status
  | opa
  | opb
  | opc
  | res0
  | res1
  | res2
deriving DecidableEq, Repr

/-- What a Host access does, with its size in bytes (20_memory.md R52, R53). -/
inductive Access where
  | read (size : Nat)
  | write (size : Nat) (v : Word)
deriving DecidableEq, Repr, Inhabited

/-- The value a WR line writes (30_encoding.md R76): a literal, or the value of a host variable (as in the programs P2
and P3 of 95_test_vectors.md; DEDUCED, log entry 10). -/
inductive Value where
  | lit (n : Nat)
  | var (x : Nat)
deriving DecidableEq, Repr

/-- One line of a host program (30_encoding.md R76). Variables and labels are numbered (DESIGN CHOICE, log entry 10). -/
inductive HostLine where
  | wr (r : RegName) (v : Value)
  | rd (x : Nat) (r : RegName)
  | label (l : Nat)
  | bnz (x : Nat) (mask : Nat) (l : Nat)
  | bz (x : Nat) (mask : Nat) (l : Nat)
  | halt
deriving DecidableEq, Repr

/-- One model step (00_scope.md R12): whose turn it is, and with what input.
`host off a` is a Host access at an offset of the window, `bus addr a` one at a platform address, `hostLine` the next
line of the host program, `engine` one Engine step, `reset` the reset input. -/
inductive Turn where
  | host (off : Nat) (a : Access)
  | bus (addr : Nat) (a : Access)
  | hostLine
  | engine
  | reset
deriving DecidableEq, Repr, Inhabited

end Sys2Proof
end

