-- ==== Sys2Proof/Config.lean ====
section
/-! DEFINITION. What the spec fixes as constants, what it leaves open as parameters, and the free values. -/

namespace Sys2Proof.Config

/-- PRIME_LO and PRIME_HI, the fixed search range of the keypair generator (00_scope.md R7). -/
def primeLo : Nat := 2

@[inherit_doc primeLo]
def primeHi : Nat := 1000

/-- The values KG_RETRY_CAP may take: NONE or a positive integer (00_scope.md R8). -/
abbrev RetryCap := Option { k : Nat // 0 < k }

/-- KG_RETRY_CAP, a parameter of the block (R8, R137). Left open: nothing is known of its value (log entry 9). -/
opaque kgRetryCap : RetryCap

/-- BASE_ADDR, the host address of the register window (R9). Left OPEN to the platform by the spec (log entry 8). -/
opaque baseAddr : Nat

/-- The draw that the RNG port delivers when State lists none, by the number of draws consumed before it: any 64-bit
value may arrive (42_keygen.md R130; log entry 4). -/
opaque freeDraw : Nat → Word

/-- The turn taken when State schedules none, by the number of turns taken before it: any enabled step may be taken
next (R12; log entry 2). -/
opaque freeTurn : Nat → Turn

/-- What a host variable reads as that no line has set: R76 is silent (log entry 11). -/
opaque freeHostVar : Nat → Word

end Sys2Proof.Config
end

