-- ==== Sys2Proof/WellFormed.lean ====
section
/-! DEFINITION. Well-formed commands and host programs. -/

namespace Sys2Proof

/-- A command has no operand, immediate or mode bit (30_encoding.md R70, R71): there is nothing to check. -/
def Instr.wf : Instr → Bool
  | .isprime => true
  | .gcd => true
  | .modinv => true
  | .keygen => true
  | .modexp => true

/-- Literal values "must be < 2^64" (30_encoding.md R76). -/
def Value.wf : Value → Bool
  | .lit n => decide (n < 2 ^ 64)
  | .var _ => true

/-- The label a line defines. -/
def HostLine.labelDef : HostLine → Option Nat
  | .label l => some l
  | .wr _ _ => none
  | .rd _ _ => none
  | .bnz _ _ _ => none
  | .bz _ _ _ => none
  | .halt => none

/-- The labels a host program defines, in order. -/
def hostLabels (p : List HostLine) : List Nat := p.filterMap HostLine.labelDef

/-- A line of a program is well-formed: its values and masks are < 2^64, and the label it goes to is defined (R76). -/
def HostLine.wf (p : List HostLine) : HostLine → Bool
  | .wr _ v => v.wf
  | .rd _ _ => true
  | .label _ => true
  | .bnz _ mask l => decide (mask < 2 ^ 64) && decide (l ∈ hostLabels p)
  | .bz _ mask l => decide (mask < 2 ^ 64) && decide (l ∈ hostLabels p)
  | .halt => true

/-- A host program is well-formed: every line is, and no label is defined twice (R76). -/
def hostProgramWf (p : List HostLine) : Bool := p.all (HostLine.wf p) && decide (hostLabels p).Nodup

end Sys2Proof
end

