-- ==== Sys2Proof/Decode.lean ====
section
/-! DEFINITION. The decoder of command words (30_encoding.md R70 to R75), total on every word and on any bytes, and the
encoder. The byte order of a byte-level binding is little-endian (20_memory.md R58). -/

namespace Sys2Proof

/-- Why a word is no command (30_encoding.md R74). -/
inductive DecodeReject where
  /-- `word[63:4] ≠ 0`. -/
  | reservedBits
  /-- OPCODE 0x0 or 0x6 to 0xF. -/
  | illegalOpcode
  /-- Fewer than the eight bytes of a command (R70: a command has no other length). -/
  | truncated
deriving DecidableEq, Repr

/-- What the decoder answers. -/
inductive Decoded where
  | instr (i : Instr)
  | reject (r : DecodeReject)
deriving DecidableEq, Repr

/-- The OPCODE field `[3:0]` of a command word (R70). -/
def opcodeField (w : Word) : BitVec 4 := w.extractLsb' 0 4

/-- The reserved field `[63:4]` of a command word (R70). -/
def reservedField (w : Word) : BitVec 60 := w.extractLsb' 4 60

/-- The decoder (R73): the reserved bits are looked at first, then the OPCODE. -/
def decode (w : Word) : Decoded :=
  if reservedField w ≠ 0 then .reject .reservedBits
  else match (opcodeField w).toNat with
    | 0x1 => .instr .isprime
    | 0x2 => .instr .gcd
    | 0x3 => .instr .modinv
    | 0x4 => .instr .keygen
    | 0x5 => .instr .modexp
    | _ => .reject .illegalOpcode

/-- The OPCODE of each mnemonic (R72). -/
def opcode : Instr → BitVec 4
  | .isprime => 0x1
  | .gcd => 0x2
  | .modinv => 0x3
  | .keygen => 0x4
  | .modexp => 0x5

/-- The encoder: the whole 64-bit value `zext_64(OPCODE)` (R72). -/
def encode (i : Instr) : Word := (opcode i).zeroExtend 64

/-- Byte `k` of a 64-bit value: bits `[8k+7:8k]` (R58). -/
def byteOfWord (w : Word) (k : Nat) : Byte := w.extractLsb' (8 * k) 8

/-- The eight bytes of a word, the one at the lowest address first (R58). -/
def bytesOfWord (w : Word) : List Byte := (List.range 8).map (byteOfWord w)

/-- The number whose bytes are given, the least significant first (R58). -/
def natOfBytes : List Byte → Nat
  | [] => 0
  | b :: bs => b.toNat + 256 * natOfBytes bs

/-- The bytes of a command, in the order of a byte-level binding. -/
def encodeBytes (i : Instr) : List Byte := bytesOfWord (encode i)

/-- The decoder on bytes: it takes the eight bytes of one command word and answers what they decode to, and the rest. -/
def decodeBytes (bs : List Byte) : Decoded × List Byte :=
  if bs.length < 8 then (.reject .truncated, bs)
  else (decode (BitVec.ofNat 64 (natOfBytes (bs.take 8))), bs.drop 8)

/-- The instruction of a decoder's answer. -/
def Decoded.toOption : Decoded → Option Instr
  | .instr i => some i
  | .reject _ => none

/-- The word of an instruction whose bits are `w`, numbered as spec/opcode_table.json numbers them; the bits above
`nbits` are zero. -/
def tableWord (nbits w : Nat) : Word := BitVec.ofNat 64 (w % 2 ^ nbits)

/-- What the decoder reads from an instruction whose bits are `w`. A command is one 64-bit word and has no other length
(R70, R75), so a longer one is no instruction of this block (log entry 16). -/
def decodeTableWord (nbits w : Nat) : Option Instr :=
  if nbits ≤ 64 then (decodeBytes (bytesOfWord (tableWord nbits w))).1.toOption else none

end Sys2Proof
end

