-- ==== Sys2Proof/Machine/State.lean ====
section
/-! DEFINITION. The state of the block (10_state.md), the environment's side of it, and the state after reset. -/

namespace Sys2Proof.Machine

/-- ENG_OP, the command in execution (10_state.md R30): NONE, one of the five commands, or ILLEGAL. -/
inductive EngOp where
  | none
  | op (i : Instr)
  | illegal
deriving DecidableEq, Repr

/-- KG_PHASE, the sampling loop KEYGEN is in (R30, 42_keygen.md R132). -/
inductive KgPhase where
  | P
  | Q
  | E
deriving DecidableEq, Repr

/-- The names of the error codes (60_exceptions.md R206); their numbers are `ErrCode.code` in Flags.lean. -/
inductive ErrCode where
  | none
  | nonInvertible
  | illegalCmd
  | domain
  | retryExhausted
deriving DecidableEq, Repr

/-- The fields of STATUS (10_state.md R24). The reserved bits [3] and [63:8] are hardwired and hold no state
(log entry 12). -/
structure Status where
  busy : Bool
  done : Bool
  ovr : Bool
  errcode : BitVec 4
deriving DecidableEq, Repr

/-- The keypair generator's working registers (R30): exact naturals, never truncated (R6). -/
structure KgRegs where
  phase : KgPhase
  p : Nat
  q : Nat
  n : Nat
  phi : Nat
  rej : Nat
deriving DecidableEq, Repr

/-- What a Host access can end in, other than normally. -/
inductive Fault where
  /-- Raised by a Host read or write of the wrong size, at an offset that is no multiple of 8, or beyond offset 0x38
  (20_memory.md R52, R53, R55). It records the offset (R56). Safe: it is the spec's own fault; the step records it in
  the Host's log and the machine goes on, since a BusError does not disturb a command in execution (log entry 5). -/
  | busError (off : Nat)
deriving DecidableEq, Repr

/-- Why a step has no meaning. -/
inductive Refusal where
  /-- Raised by an arm of `exec` whose instruction has no meaning yet: none is left. Safe. -/
  | notModelled (mnemonic : String)
  /-- Raised by a host program's line that R76 gives no meaning: a value or mask not below 2^64, or a label the program
  does not define, at line `pc`. It concerns the Host's own program, no command of the block. Safe (log entry 11). -/
  | illFormedHostLine (pc : Nat)
deriving DecidableEq, Repr

/-- What a Host access answers (20_memory.md R52 to R54, R56). -/
inductive Response where
  | data (off : Nat) (v : Word)
  | done (off : Nat)
  | fault (f : Fault)
deriving DecidableEq, Repr

/-- The Host: the responses it has received (newest first), and the program it runs (30_encoding.md R76) with its
position and its variables, listed by rising number. The model's own reading of the Host (log entries 5, 6, 10). -/
structure HostCtx where
  log : List Response
  program : List HostLine
  pc : Nat
  vars : List (Nat × Word)
deriving DecidableEq, Repr

/-- The state. The first eight fields are the host-visible registers (10_state.md R20), the next five the internal
registers (R30); the last five are the environment's side, which the model holds (log entries 1, 2, 4, 6). -/
structure State where
  cmd : Word
  status : Status
  opa : Word
  opb : Word
  opc : Word
  res0 : Word
  res1 : Word
  res2 : Word
  engOp : EngOp
  la : Word
  lb : Word
  lc : Word
  kg : KgRegs
  /-- The turns still to be taken, the next one first. -/
  schedule : List Turn
  turnCount : Nat
  /-- The draws the RNG port delivers next. -/
  draws : List Word
  drawCount : Nat
  host : HostCtx
deriving DecidableEq, Repr

/-- STATUS after reset: every field 0 (R24, R34). -/
def Status.reset : Status := { busy := false, done := false, ovr := false, errcode := 0 }

/-- The KG_* registers' reset values (R30, R34). -/
def KgRegs.reset : KgRegs := { phase := .P, p := 0, q := 0, n := 0, phi := 0, rej := 0 }

/-- The Host before it has done anything (DESIGN CHOICE, log entry 6). -/
def HostCtx.reset : HostCtx := { log := [], program := [], pc := 0, vars := [] }

/-- The state after reset (R34); the environment's side is empty (DESIGN CHOICE, log entry 6). -/
def State.reset : State where
  cmd := 0
  status := Status.reset
  opa := 0
  opb := 0
  opc := 0
  res0 := 0
  res1 := 0
  res2 := 0
  engOp := .none
  la := 0
  lb := 0
  lc := 0
  kg := KgRegs.reset
  schedule := []
  turnCount := 0
  draws := []
  drawCount := 0
  host := HostCtx.reset

end Sys2Proof.Machine
end

