-- ==== Sys2Proof/Machine/Flags.lean ====
section
/-! DEFINITION. The STATUS fields: the only flags of the block (10_state.md R24, R28), the error codes' numbers
(60_exceptions.md R206), and every way a flag changes (R201, R202, R203). -/

namespace Sys2Proof.Machine

/-- The number of an error code (60_exceptions.md R206). -/
def ErrCode.code : ErrCode → BitVec 4
  | .none => 0
  | .nonInvertible => 1
  | .illegalCmd => 2
  | .domain => 3
  | .retryExhausted => 4

/-- STATUS as the Host reads it (10_state.md R24): ERRCODE in [7:4], bit [3] zero, OVR, DONE, BUSY in [2], [1], [0];
bits [63:8] read 0. -/
def Status.word (st : Status) : Word :=
  (0#56 ++ st.errcode ++ 0#1 ++ BitVec.ofBool st.ovr ++ BitVec.ofBool st.done ++ BitVec.ofBool st.busy : BitVec 64)

/-- STATUS at acceptance (60_exceptions.md R201). -/
def Status.accept (_ : Status) : Status := { busy := true, done := false, ovr := false, errcode := 0 }

/-- STATUS when a CMD write is dropped (R202): only OVR is set. -/
def Status.overrun (st : Status) : Status := { st with ovr := true }

/-- STATUS at completion (R203): OVR is kept. -/
def Status.complete (code : ErrCode) (st : Status) : Status :=
  { st with busy := false, done := true, errcode := code.code }

end Sys2Proof.Machine
end

