-- ==== Sys2Proof/Machine/Operands.lean ====
section
/-! DEFINITION. The operands of a command (30_encoding.md R71, 10_state.md R23) and how a result is written back
(00_scope.md R15). -/

namespace Sys2Proof.Machine

/-- Operand A: LA as the natural number toNat(LA) (R71). -/
def State.operandA (s : State) : Nat := s.la.toNat

/-- Operand B: LB as the natural number toNat(LB) (R71). -/
def State.operandB (s : State) : Nat := s.lb.toNat

/-- Operand C: LC as the natural number toNat(LC) (R71). -/
def State.operandC (s : State) : Nat := s.lc.toNat

/-- A natural number written back as a W-bit value, ofNat(x) (R15). -/
def toWord (x : Nat) : Word := BitVec.ofNat 64 x

/-- The W-bit value of an answer: `zext_64(b ? 1 : 0)` (40_primality.md R100). -/
def boolWord (b : Bool) : Word := if b then 1 else 0

end Sys2Proof.Machine
end

