-- ==== Sys2Proof/Machine/Ops.lean ====
section
/-! DEFINITION. The shared operations: the register window and the Host's accesses (20_memory.md), acceptance,
overrun and completion of a command (60_exceptions.md R201 to R205), reset (70_reset_and_hazards.md R250), and the RNG
port (42_keygen.md R130). The block takes no trap (R213): `complete` is how an error is reported. -/

namespace Sys2Proof.Machine

/-! ## Register window -/

/-- The offset of a register in the window (10_state.md R20). -/
def regOffset : RegName → Nat
  | .cmd => 0x00
  | .status => 0x08
  | .opa => 0x10
  | .opb => 0x18
  | .opc => 0x20
  | .res0 => 0x28
  | .res1 => 0x30
  | .res2 => 0x38

/-- `name_at`, the register at an offset (R20, R52). -/
def nameAt : Nat → Option RegName
  | 0x00 => some .cmd
  | 0x08 => some .status
  | 0x10 => some .opa
  | 0x18 => some .opb
  | 0x20 => some .opc
  | 0x28 => some .res0
  | 0x30 => some .res1
  | 0x38 => some .res2
  | _ => none

/-- The register an access of `size` bytes at `off` reaches; none where it is a BusError (20_memory.md R52, R53, R55). -/
def accessReg (off size : Nat) : Option RegName :=
  if size ≠ 8 ∨ off % 8 ≠ 0 ∨ off > 0x38 then none else nameAt off

/-- `reg(NAME)`, the value a read of a register returns (00_scope.md R17, 20_memory.md R52). -/
def readReg (r : RegName) (s : State) : Word :=
  match r with
  | .cmd => s.cmd
  | .status => s.status.word
  | .opa => s.opa
  | .opb => s.opb
  | .opc => s.opc
  | .res0 => s.res0
  | .res1 => s.res1
  | .res2 => s.res2

/-- The byte at an offset of the window in a byte-level binding: byte k of the register at offset `off - k`
(20_memory.md R58). -/
def windowByte (off : Nat) (s : State) : Option Byte :=
  (nameAt (off / 8 * 8)).map fun r => byteOfWord (readReg r s) (off % 8)

/-! ## Life of a command -/

/-- ENG_OP at acceptance of a word: `decode` of 30_encoding.md R73. -/
def EngOp.ofWord (w : Word) : EngOp :=
  match decode w with
  | .instr i => .op i
  | .reject _ => .illegal

/-- Acceptance of a command word (60_exceptions.md R201). -/
def accept (w : Word) (s : State) : State :=
  { s with
    cmd := w
    la := s.opa
    lb := s.opb
    lc := s.opc
    engOp := EngOp.ofWord w
    status := s.status.accept }

/-- A dropped CMD write: its only effect is OVR (R202). -/
def overrun (s : State) : State := { s with status := s.status.overrun }

/-- A Host write to CMD (R201, R202). -/
def commandWrite (w : Word) (s : State) : State := if s.status.busy then overrun s else accept w s

/-- Completion, `complete(code)` (R203): the KG_* registers go back to their reset values (10_state.md R31). -/
def complete (code : ErrCode) (s : State) : State :=
  { s with status := s.status.complete code, engOp := .none, kg := KgRegs.reset }

/-- A result of a command with one result: RES0 (10_state.md R23, 60_exceptions.md R204). -/
def writeRes0 (v : Word) (s : State) : State := { s with res0 := v }

/-- The three results of KEYGEN, in one step (R23, R204). -/
def writeKeypair (e d n : Word) (s : State) : State := { s with res0 := e, res1 := d, res2 := n }

/-- Write the keypair generator's registers. -/
def setKg (kg : KgRegs) (s : State) : State := { s with kg := kg }

/-- The reset input (70_reset_and_hazards.md R250): every state element of the block takes its reset value; the
environment's side stays (log entry 6). -/
def resetBlock (s : State) : State :=
  { State.reset with
    schedule := s.schedule
    turnCount := s.turnCount
    draws := s.draws
    drawCount := s.drawCount
    host := s.host }

/-! ## Host accesses -/

/-- The Host receives a response. -/
def respond (r : Response) (s : State) : State := { s with host := { s.host with log := r :: s.host.log } }

/-- A Host write of `v` to a register (20_memory.md R53): a write to a read-only register is ignored (R54). -/
def writeReg (r : RegName) (v : Word) (s : State) : State :=
  match r with
  | .opa => { s with opa := v }
  | .opb => { s with opb := v }
  | .opc => { s with opc := v }
  | .cmd => commandWrite v s
  | .status => s
  | .res0 => s
  | .res1 => s
  | .res2 => s

/-- `HostRead(off, size)` (R52): the register's value, or a BusError; no side effect on the block. -/
def hostRead (off size : Nat) (s : State) : State :=
  match accessReg off size with
  | some r => respond (.data off (readReg r s)) s
  | none => respond (.fault (.busError off)) s

/-- `HostWrite(off, size, v)` (R53), or a BusError, which changes nothing of the block (R56). -/
def hostWrite (off size : Nat) (v : Word) (s : State) : State :=
  match accessReg off size with
  | some r => respond (.done off) (writeReg r v s)
  | none => respond (.fault (.busError off)) s

/-- A Host access at an offset of the window. -/
def hostAccess (off : Nat) (a : Access) (s : State) : State :=
  match a with
  | .read size => hostRead off size s
  | .write size v => hostWrite off size v s

/-- The offset of a platform address in the window of 64 bytes at `base` (20_memory.md R50). -/
def windowOffset (base addr : Nat) : Option Nat :=
  if base ≤ addr ∧ addr < base + 0x40 then some (addr - base) else none

/-- A platform access at an address (00_scope.md R17: MemRead and MemWrite at BASE_ADDR + off). An address outside the
window is not decoded by the block (R50), so nothing of the block changes (log entry 8). -/
def busAccess (base addr : Nat) (a : Access) (s : State) : State :=
  match windowOffset base addr with
  | some off => hostAccess off a s
  | none => s

/-! ## RNG port -/

/-- The draw the RNG port supplies to this Engine step, `draw()` (42_keygen.md R130). -/
def nextDraw (s : State) : Word :=
  match s.draws with
  | [] => Config.freeDraw s.drawCount
  | v :: _ => v

/-- One draw is consumed (R130). -/
def consumeDraw (s : State) : State := { s with draws := s.draws.tail, drawCount := s.drawCount + 1 }

/-! ## Turns -/

/-- The next turn (00_scope.md R12). -/
def nextTurn (s : State) : Turn :=
  match s.schedule with
  | [] => Config.freeTurn s.turnCount
  | t :: _ => t

/-- The next turn is taken off the schedule. -/
def takeTurn (s : State) : State := { s with schedule := s.schedule.tail, turnCount := s.turnCount + 1 }

end Sys2Proof.Machine
end

