-- ==== Sys2Proof/Machine/Kernel.lean ====
section
/-! DEFINITION. The GCD unit and the modular-inverse engine (41_kernel.md), and the commands GCD and MODINV. The loops
run on a count of their iterations that is large enough for every operand (log entry 15). -/

namespace Sys2Proof.Machine

/-- The Euclidean loop (41_kernel.md R111), at most `fuel` iterations. -/
def gcdLoop : Nat → Nat → Nat → Nat
  | 0, a, _ => a
  | fuel + 1, a, b => if b = 0 then a else gcdLoop fuel b (a % b)

/-- `gcd(a, b)` (R111): b strictly decreases, so b iterations end the loop. -/
def euclidGcd (a b : Nat) : Nat := gcdLoop b a b

/-- The two running chains of the extended Euclidean algorithm, exact integers (41_kernel.md R120). -/
structure Chains where
  oldR : Int
  r : Int
  oldT : Int
  t : Int
deriving DecidableEq, Repr

/-- One iteration: both chains are updated at once (R120). -/
def Chains.next (c : Chains) : Chains where
  oldR := c.r
  r := c.oldR - c.oldR / c.r * c.r
  oldT := c.t
  t := c.oldT - c.oldR / c.r * c.t

/-- The loop `while r > 0` (R120), at most `fuel` iterations. -/
def euclidLoop : Nat → Chains → Chains
  | 0, c => c
  | fuel + 1, c => if c.r > 0 then euclidLoop fuel c.next else c

/-- The chains' seeds (R120). -/
def Chains.seed (e phi : Nat) : Chains := { oldR := phi, r := e, oldT := 0, t := 1 }

/-- `d emod phi` after a negative coefficient has had phi added (R120, R125). -/
def normaliseInverse (t : Int) (phi : Nat) : Nat := ((if t < 0 then t + phi else t) % (phi : Int)).toNat

/-- `modInverse(e, phi)` (R120, R122 to R125); none is NonInvertible. r strictly decreases from e, so e iterations end
the loop. -/
def modInverse (e phi : Nat) : Option Nat :=
  if phi = 0 then none
  else
    let c := euclidLoop e (Chains.seed e phi)
    if c.oldR > 1 then none else some (normaliseInverse c.oldT phi)

/-- GCD, its one Engine step (R110). -/
def execGcd (s : State) : Host.Outcome State Fault Refusal :=
  .next (complete .none (writeRes0 (toWord (euclidGcd s.operandA s.operandB)) s))

/-- MODINV's completion: the result, or NON_INVERTIBLE with no result written (R121). -/
def completeInverse (d : Option Nat) (s : State) : State :=
  match d with
  | none => complete .nonInvertible s
  | some d => complete .none (writeRes0 (toWord d) s)

/-- MODINV, its one Engine step (R121). -/
def execModinv (s : State) : Host.Outcome State Fault Refusal :=
  .next (completeInverse (modInverse s.operandA s.operandB) s)

end Sys2Proof.Machine
end

