-- ==== Sys2Proof/Machine/Primality.lean ====
section
/-! DEFINITION. The primality tester (40_primality.md): trial division, and the command ISPRIME. The loops run on a
count of their iterations that is large enough for every operand (log entry 15). -/

namespace Sys2Proof.Machine

/-- `isqrt`, digit by digit: the largest root whose bits below `b` may still be set on top of `r`. -/
def isqrtFrom (x : Nat) : Nat → Nat → Nat
  | 0, r => r
  | b + 1, r => isqrtFrom x b (if (r + 2 ^ b) * (r + 2 ^ b) ≤ x then r + 2 ^ b else r)

/-- The largest `s` with `s*s ≤ x`, exact (00_scope.md R16). -/
def isqrt (x : Nat) : Nat := isqrtFrom x (Nat.log2 x / 2 + 1) 0

/-- The trial divisions by `k`, `k + 2`, … up to `lim`, at most `fuel` of them (40_primality.md R101). -/
def trialDivide (num lim : Nat) : Nat → Nat → Bool
  | 0, _ => true
  | fuel + 1, k =>
    if k ≤ lim then
      if num % k = 0 then false else trialDivide num lim fuel (k + 2)
    else true

/-- `isPrime(num)` (R101). -/
def isPrime (num : Nat) : Bool :=
  if num = 2 then true
  else if num < 2 ∨ num % 2 = 0 then false
  else trialDivide num (isqrt num + 1) (isqrt num + 1) 3

/-- ISPRIME, its one Engine step (R100). -/
def execIsprime (s : State) : Host.Outcome State Fault Refusal :=
  .next (complete .none (writeRes0 (boolWord (isPrime s.operandA)) s))

end Sys2Proof.Machine
end

