-- ==== Sys2Proof/Machine/Keygen.lean ====
section
/-! DEFINITION. The keypair generator (42_keygen.md): one draw per Engine step, three sampling loops. -/

namespace Sys2Proof.Machine

/-- The range `[lo, hi]` of a sampling loop (R133 to R135). -/
def samplingRange (kg : KgRegs) : Nat × Nat :=
  match kg.phase with
  | .P => (Config.primeLo, Config.primeHi)
  | .Q => (Config.primeLo, Config.primeHi)
  | .E => (1, kg.phi)

/-- The range the Engine presents to the RNG port with its draw request (R130); no other command requests a draw. -/
def drawRequest (s : State) : Option (Nat × Nat) :=
  match s.engOp with
  | .op .keygen => some (samplingRange s.kg)
  | _ => none

/-- The draw lies in the range presented (R133 to R135). -/
def inRange (kg : KgRegs) (v : Nat) : Bool := decide ((samplingRange kg).1 ≤ v ∧ v ≤ (samplingRange kg).2)

/-- `reject()` (R137): the draw counts against the cap; it is never adjusted (R139). -/
def reject (cap : Config.RetryCap) (s : State) : State :=
  let rej := s.kg.rej + 1
  match cap with
  | none => setKg { s.kg with rej := rej } s
  | some k => if k.val ≤ rej then complete .retryExhausted s else setKg { s.kg with rej := rej } s

/-- Phase P (R133). -/
def stepP (cap : Config.RetryCap) (v : Nat) (s : State) : State :=
  if inRange s.kg v ∧ isPrime v then setKg { s.kg with p := v, rej := 0, phase := .Q } s
  else reject cap s

/-- Phase Q (R134); `KG_P - 1` is on naturals (log entry 13). -/
def stepQ (cap : Config.RetryCap) (v : Nat) (s : State) : State :=
  if inRange s.kg v ∧ isPrime v ∧ v ≠ s.kg.p then
    setKg { s.kg with
      q := v
      n := s.kg.p * v
      phi := (s.kg.p - 1) * (v - 1)
      rej := 0
      phase := .E } s
  else reject cap s

/-- KEYGEN's completion from phase E: the keypair, or NON_INVERTIBLE with no result written (R135, R136). -/
def completeKeypair (e : Nat) (d : Option Nat) (s : State) : State :=
  match d with
  | none => complete .nonInvertible s
  | some d => complete .none (writeKeypair (toWord e) (toWord d) (toWord s.kg.n) s)

/-- Phase E (R135). -/
def stepE (cap : Config.RetryCap) (v : Nat) (s : State) : State :=
  if inRange s.kg v ∧ euclidGcd s.kg.phi v = 1 then completeKeypair v (modInverse v s.kg.phi) s
  else reject cap s

/-- One Engine step of KEYGEN with draw `v` (R132), for any cap. -/
def kgStep (cap : Config.RetryCap) (v : Nat) (s : State) : State :=
  match s.kg.phase with
  | .P => stepP cap v s
  | .Q => stepQ cap v s
  | .E => stepE cap v s

/-- KEYGEN, one Engine step: it consumes exactly one draw (R130, R131). -/
def execKeygen (s : State) : Host.Outcome State Fault Refusal :=
  .next (kgStep Config.kgRetryCap (nextDraw s).toNat (consumeDraw s))

end Sys2Proof.Machine
end

