-- ==== Sys2Proof/Machine/Modexp.lean ====
section
/-! DEFINITION. The modular-exponentiation unit (43_modexp.md) and the command MODEXP. The unit computes by the
reference method of R162, which the kernel can evaluate on 64-bit exponents (log entry 14). -/

namespace Sys2Proof.Machine

/-- The loop of the reference method (R162): one iteration per bit of the exponent, at most `fuel`. -/
def powLoop (m : Nat) : Nat → Nat → Nat → Nat → Nat
  | 0, acc, _, _ => acc
  | fuel + 1, acc, base, x =>
    if x > 0 then
      powLoop m fuel (if x % 2 = 1 then acc * base % m else acc) (base * base % m) (x / 2)
    else acc

/-- `modexp(b, x, m)` for m ≥ 1 (R161, R162). -/
def modexp (b x m : Nat) : Nat := powLoop m (Nat.log2 x + 1) (1 % m) (b % m) x

/-- MODEXP's completion: DOMAIN when the modulus is 0, with no result written (R160, R163). -/
def completeModexp (b x m : Nat) (s : State) : State :=
  if m = 0 then complete .domain s else complete .none (writeRes0 (toWord (modexp b x m)) s)

/-- MODEXP, its one Engine step (R160). -/
def execModexp (s : State) : Host.Outcome State Fault Refusal :=
  .next (completeModexp s.operandA s.operandB s.operandC s)

end Sys2Proof.Machine
end

