-- ==== Sys2Proof/Machine/Dispatch.lean ====
section
/-! DEFINITION. One arm per command: the Engine step of the command named by ENG_OP (60_exceptions.md R200). -/

namespace Sys2Proof.Machine

def exec (i : Instr) (s : State) : Host.Outcome State Fault Refusal :=
  match i with
  | .isprime => Sys2Proof.Machine.execIsprime s
  | .gcd => Sys2Proof.Machine.execGcd s
  | .modinv => Sys2Proof.Machine.execModinv s
  | .keygen => Sys2Proof.Machine.execKeygen s
  | .modexp => Sys2Proof.Machine.execModexp s

end Sys2Proof.Machine
end

