-- ==== Sys2Proof/Machine/HostProgram.lean ====
section
/-! DEFINITION. The Host's program lines (30_encoding.md R76), the pseudo-operations (R77) and the lines' encoding as
bus transactions (R78). -/

namespace Sys2Proof.Machine

/-- The value of a host variable; one that no line has set has a free value (log entry 11). -/
def HostCtx.readVar (h : HostCtx) (x : Nat) : Word :=
  match h.vars.lookup x with
  | some v => v
  | none => Config.freeHostVar x

/-- Set a variable in a list kept by rising number. -/
def setVarList (x : Nat) (v : Word) : List (Nat × Word) → List (Nat × Word)
  | [] => [(x, v)]
  | (y, u) :: rest =>
    if x < y then (x, v) :: (y, u) :: rest
    else if x = y then (x, v) :: rest
    else (y, u) :: setVarList x v rest

/-- Set a host variable. -/
def setVar (x : Nat) (v : Word) (s : State) : State :=
  { s with host := { s.host with vars := setVarList x v s.host.vars } }

/-- The Host goes to a line. -/
def gotoLine (pc : Nat) (s : State) : State := { s with host := { s.host with pc := pc } }

/-- The Host goes to the line after this one. -/
def nextLine (s : State) : State := gotoLine (s.host.pc + 1) s

/-- The value a WR line writes; none where a literal is not below 2^64 (R76). -/
def Value.eval (h : HostCtx) : Value → Option Word
  | .lit n => if n < 2 ^ 64 then some (toWord n) else none
  | .var x => some (h.readVar x)

/-- The line that defines a label. -/
def labelLine (p : List HostLine) (l : Nat) : Option Nat := p.findIdx? fun ln => decide (ln = .label l)

/-- A step that has no meaning: the line is ill-formed (log entry 11). -/
def refuseLine (s : State) : Host.Outcome State Fault Refusal := .refused (.illFormedHostLine s.host.pc)

/-- A branch of the Host (R76): to the label if the masked variable meets the condition, else to the next line. -/
def hostBranch (taken : Word → Bool) (x mask l : Nat) (s : State) : Host.Outcome State Fault Refusal :=
  match labelLine s.host.program l with
  | none => refuseLine s
  | some pc =>
    if mask < 2 ^ 64 then
      .next (if taken (s.host.readVar x &&& toWord mask) then gotoLine pc s else nextLine s)
    else refuseLine s

/-- One line of the host program (R76): WR and RD are 8-byte accesses of the window; the other lines touch only the
Host. -/
def execHostLine (ln : HostLine) (s : State) : Host.Outcome State Fault Refusal :=
  match ln with
  | .wr r v =>
    match Value.eval s.host v with
    | none => refuseLine s
    | some w => .next (nextLine (hostWrite (regOffset r) 8 w s))
  | .rd x r => .next (nextLine (setVar x (readReg r s) (hostRead (regOffset r) 8 s)))
  | .label _ => .next (nextLine s)
  | .bnz x mask l => hostBranch (fun v => decide (v ≠ 0)) x mask l s
  | .bz x mask l => hostBranch (fun v => decide (v = 0)) x mask l s
  | .halt => .next s

/-- The Host's turn with its program: past the program's end there is no line, and nothing happens (log entry 11). -/
def hostLineTurn (s : State) : Host.Outcome State Fault Refusal :=
  match s.host.program[s.host.pc]? with
  | none => .next s
  | some ln => execHostLine ln s

/-! ## Pseudo-operations (R77). A label and a host variable that the expansion uses are arguments. -/

/-- `CMD <mnemonic>` is `WR CMD, zext_64(OPCODE)`. -/
def cmdLine (i : Instr) : HostLine := .wr .cmd (.lit (encode i).toNat)

/-- `WAIT`: poll STATUS until BUSY = 0, with the fresh label `lw` and the variable `x`. -/
def waitLines (lw x : Nat) : List HostLine := [.label lw, .rd x .status, .bnz x 0x1 lw]

/-- `CMD <mnemonic>` and then `WAIT`. -/
def startAndWait (i : Instr) (lw x : Nat) : List HostLine := cmdLine i :: waitLines lw x

/-- `RUN ISPRIME a`. -/
def runIsprime (a : Value) (lw x : Nat) : List HostLine := .wr .opa a :: startAndWait .isprime lw x

/-- `RUN GCD a, b`. -/
def runGcd (a b : Value) (lw x : Nat) : List HostLine := .wr .opa a :: .wr .opb b :: startAndWait .gcd lw x

/-- `RUN MODINV e, phi`. -/
def runModinv (e phi : Value) (lw x : Nat) : List HostLine := .wr .opa e :: .wr .opb phi :: startAndWait .modinv lw x

/-- `RUN KEYGEN`. -/
def runKeygen (lw x : Nat) : List HostLine := startAndWait .keygen lw x

/-- `RUN MODEXP base, exp, mod`. -/
def runModexp (base exp mod : Value) (lw x : Nat) : List HostLine :=
  .wr .opa base :: .wr .opb exp :: .wr .opc mod :: startAndWait .modexp lw x

/-! ## The lines' encoding as bus transactions (R78) -/

/-- A bus transaction: an 8-byte access at an offset. -/
def HostLine.transaction (h : HostCtx) : HostLine → Option (Nat × Access)
  | .wr r v => (Value.eval h v).map fun w => (regOffset r, .write 8 w)
  | .rd _ r => some (regOffset r, .read 8)
  | .label _ => none
  | .bnz _ _ _ => none
  | .bz _ _ _ => none
  | .halt => none

/-- The transactions of a straight run of lines (R78), the variables being as in `h`. -/
def transactions (h : HostCtx) (ls : List HostLine) : List (Nat × Access) := ls.filterMap (HostLine.transaction h)

/-- A hexadecimal digit. -/
def hexDigit (n : Nat) : Char := if n < 10 then Char.ofNat ('0'.toNat + n) else Char.ofNat ('A'.toNat + (n - 10))

/-- The last `digits` hexadecimal digits of a number, the most significant first. -/
def hexDigits : Nat → Nat → List Char
  | 0, _ => []
  | digits + 1, n => hexDigits digits (n / 16) ++ [hexDigit (n % 16)]

/-- How a transaction is written (R78): `W <off> <value>` or `R <off>`, the offset in hex and the value as a 64-bit hex
word; none for an access that no line makes. -/
def renderTransaction (off : Nat) (a : Access) : Option (List Char) :=
  match a with
  | .read size => if size = 8 then some (['R', ' ', '0', 'x'] ++ hexDigits 2 off) else none
  | .write size v =>
    if size = 8 then some (['W', ' ', '0', 'x'] ++ hexDigits 2 off ++ [' ', '0', 'x'] ++ hexDigits 16 v.toNat)
    else none

end Sys2Proof.Machine
end

