-- ==== Sys2Proof/Machine/Engine.lean ====
section
/-! DEFINITION. The agents' turns (00_scope.md R12): the Engine step of the command in execution (60_exceptions.md
R200), and what each turn does. -/

namespace Sys2Proof.Machine

/-- The Engine step of an illegal command word: `complete(ILLEGAL_CMD)` and nothing else (60_exceptions.md R210). -/
def execIllegal (s : State) : Host.Outcome State Fault Refusal := .next (complete .illegalCmd s)

/-- The Engine's turn (R200): the step of the command named by ENG_OP; with NONE the Engine has no step, and its turn
changes nothing (log entry 3). -/
def engineTurn (s : State) : Host.Outcome State Fault Refusal :=
  match s.engOp with
  | .none => .next s
  | .op i => exec i s
  | .illegal => execIllegal s

/-- One turn of an agent (R12). -/
def runTurn (t : Turn) (s : State) : Host.Outcome State Fault Refusal :=
  match t with
  | .host off a => .next (hostAccess off a s)
  | .bus addr a => .next (busAccess Config.baseAddr addr a s)
  | .hostLine => hostLineTurn s
  | .engine => engineTurn s
  | .reset => .next (resetBlock s)

/-- An accepted command whose Engine step comes next: the word `w` is accepted as 60_exceptions.md R201 says, with the
keypair generator's registers as they are at every acceptance (10_state.md R31), and the Engine moves next
(log entry 7). -/
def startCommand (w : Word) (s : State) : State :=
  { setKg KgRegs.reset (accept w s) with schedule := .engine :: s.schedule }

end Sys2Proof.Machine
end

