-- ==== Sys2Proof/Machine/Step.lean ====
section
/-! DEFINITION. One step of the machine (00_scope.md R12), and how the host's harness places a command. -/

namespace Sys2Proof.Machine

/-- One step: the next turn is taken. -/
def step (s : State) : Host.Outcome State Fault Refusal := runTurn (nextTurn s) (takeTurn s)

/-- The state in which the very next step runs the command whose bits are `w` (log entry 7): the block fetches nothing
(10_state.md R29), so the command is placed as an accepted one, and the Engine's turn comes next. -/
def State.withFetchWord (s : State) (nbits w : Nat) : State := startCommand (tableWord nbits w) s

end Sys2Proof.Machine
end

