-- ==== Sys2Proof/Safety.lean ====
section
/-! DEFINITION. The terms that claims use: the invariants of STATUS and of the keypair generator, and what counts as a
run without a bus error. -/

namespace Sys2Proof.Machine

/-- A prime the keypair generator may hold: a prime in [PRIME_LO, PRIME_HI] (00_scope.md R7, 42_keygen.md R133). -/
def KeyPrime (p : Nat) : Prop := Nat.Prime p ∧ Config.primeLo ≤ p ∧ p ≤ Config.primeHi

/-- The keypair generator's registers while KEYGEN is in execution, phase by phase (42_keygen.md R133 to R135). -/
def KgRegs.Progress (kg : KgRegs) : Prop :=
  match kg.phase with
  | .P => kg.p = 0 ∧ kg.q = 0 ∧ kg.n = 0 ∧ kg.phi = 0
  | .Q => KeyPrime kg.p ∧ kg.q = 0 ∧ kg.n = 0 ∧ kg.phi = 0
  | .E => KeyPrime kg.p ∧ KeyPrime kg.q ∧ kg.p ≠ kg.q ∧ kg.n = kg.p * kg.q ∧ kg.phi = (kg.p - 1) * (kg.q - 1)

/-- The invariants of the block. -/
structure State.Inv (s : State) : Prop where
  /-- BUSY = 1 exactly when ENG_OP ≠ NONE (60_exceptions.md R200). -/
  busy_iff : s.status.busy = true ↔ s.engOp ≠ .none
  /-- 10_state.md R25 (a). -/
  busy_done : s.status.busy = true → s.status.done = false
  /-- 10_state.md R25 (b). -/
  busy_errcode : s.status.busy = true → s.status.errcode = 0
  /-- 10_state.md R25 (c): before the first acceptance. -/
  fresh : s.status.busy = false → s.status.done = false → s.status.errcode = 0 ∧ s.status.ovr = false ∧ s.cmd = 0
  /-- 10_state.md R25 (d). -/
  errcode_le : s.status.errcode.toNat ≤ 4
  /-- The command in execution is the one CMD holds (30_encoding.md R73, 10_state.md R26). -/
  engOp_cmd : s.engOp = .none ∨ s.engOp = EngOp.ofWord s.cmd
  /-- The keypair generator's registers are at their reset values unless KEYGEN is in execution (10_state.md R31). -/
  kg_idle : s.engOp ≠ .op .keygen → s.kg = KgRegs.reset
  /-- While KEYGEN is in execution they hold what its phase says. -/
  kg_progress : s.engOp = .op .keygen → s.kg.Progress
  /-- The rejected draws of the current sampling loop stay below the cap (42_keygen.md R137). -/
  kg_rej : ∀ k, Config.kgRetryCap = some k → s.kg.rej < k.val

/-- The Host has seen no BusError (20_memory.md R56). -/
def State.NoBusError (s : State) : Prop := ∀ off, Response.fault (.busError off) ∉ s.host.log

/-- The state after a completion with an error code, written out from 60_exceptions.md R203: BUSY 0, DONE 1, OVR kept,
ENG_OP NONE, the KG_* registers at their reset values, and everything else kept. -/
def State.completed (code : BitVec 4) (s : State) : State :=
  { s with
    status := { busy := false, done := true, ovr := s.status.ovr, errcode := code }
    engOp := .none
    kg := { phase := .P, p := 0, q := 0, n := 0, phi := 0, rej := 0 } }

/-- The state after a rejected draw, written out from 42_keygen.md R137: RETRY_EXHAUSTED (4) when the draw uses up the
cap, else only KG_REJ counts it. -/
def State.rejected (cap : Config.RetryCap) (s : State) : State :=
  match cap with
  | none => { s with kg := { s.kg with rej := s.kg.rej + 1 } }
  | some k => if s.kg.rej + 1 ≥ k.val then s.completed 4 else { s with kg := { s.kg with rej := s.kg.rej + 1 } }

/-- A draw that the sampling loop of the phase accepts, in the words of 42_keygen.md R133 to R135 (`isPrime` is R101's,
`gcd` R111's). -/
def KgRegs.Acceptable (kg : KgRegs) (v : Nat) : Prop :=
  match kg.phase with
  | .P => 2 ≤ v ∧ v ≤ 1000 ∧ isPrime v = true
  | .Q => 2 ≤ v ∧ v ≤ 1000 ∧ isPrime v = true ∧ v ≠ kg.p
  | .E => 1 ≤ v ∧ v ≤ kg.phi ∧ euclidGcd kg.phi v = 1

/-- `d` is the inverse of `e` modulo `phi` that 41_kernel.md R125 promises: in [0, phi), with (e * d) mod phi = 1 mod
phi. -/
def IsInverse (d e phi : Nat) : Prop := d < phi ∧ e * d % phi = 1 % phi

/-- The state after one draw has been consumed (42_keygen.md R130). -/
def State.drawn (s : State) : State := { s with draws := s.draws.tail, drawCount := s.drawCount + 1 }

/-- The state after the Host has received a response. -/
def State.responded (r : Response) (s : State) : State := { s with host := { s.host with log := r :: s.host.log } }

/-- The state after a turn has been taken off the schedule. -/
def State.turned (s : State) : State := { s with schedule := s.schedule.tail, turnCount := s.turnCount + 1 }

/-- Everything of the block: all but the environment's side of State. -/
def State.SameBlock (s t : State) : Prop :=
  t.cmd = s.cmd ∧ t.status = s.status ∧ t.opa = s.opa ∧ t.opb = s.opb ∧ t.opc = s.opc ∧
  t.res0 = s.res0 ∧ t.res1 = s.res1 ∧ t.res2 = s.res2 ∧
  t.engOp = s.engOp ∧ t.la = s.la ∧ t.lb = s.lb ∧ t.lc = s.lc ∧ t.kg = s.kg

end Sys2Proof.Machine
end

