-- ==== Sys2Proof/Certificates/Slice0/Obligations.lean ====
section
/-! DEFINITION. The statements, from the spec's numbered rules. The Host's log of responses (`responded`), the schedule of
turns and the list of draws are the model's own fields (log entries 1, 2, 4, 6); the statements hold for every value of
them, and of the free values. The block has no byte memory (20_memory.md R51); a statement whose conclusion is a whole
next state, written as the state before with the fields named, says thereby that nothing else changes. -/

open Sys2Proof Sys2Proof.Machine

/-! ## Encoding -/

/-- The words of the table's five rows, and words that are no row (30_encoding.md R72 to R74; 95_test_vectors.md 2.6). -/
def Obligations.DecodeGivesTheTableRows : Prop :=
  decode 0x0000000000000001 = .instr .isprime ∧
  decode 0x0000000000000002 = .instr .gcd ∧
  decode 0x0000000000000003 = .instr .modinv ∧
  decode 0x0000000000000004 = .instr .keygen ∧
  decode 0x0000000000000005 = .instr .modexp ∧
  decode 0x0 = .reject .illegalOpcode ∧
  decode 0x7 = .reject .illegalOpcode ∧
  decode 0xF = .reject .illegalOpcode ∧
  decode 0x11 = .reject .reservedBits ∧
  decode 0x8000000000000001 = .reject .reservedBits

/-- 30_encoding.md R72: each mnemonic, its OPCODE, and the words that select it. -/
def Obligations.WordSelectsMnemonicExactly : Prop :=
  ∀ w : Word,
    (decode w = .instr .isprime ↔ w.extractLsb' 0 4 = 0x1 ∧ w.extractLsb' 4 60 = 0) ∧
    (decode w = .instr .gcd ↔ w.extractLsb' 0 4 = 0x2 ∧ w.extractLsb' 4 60 = 0) ∧
    (decode w = .instr .modinv ↔ w.extractLsb' 0 4 = 0x3 ∧ w.extractLsb' 4 60 = 0) ∧
    (decode w = .instr .keygen ↔ w.extractLsb' 0 4 = 0x4 ∧ w.extractLsb' 4 60 = 0) ∧
    (decode w = .instr .modexp ↔ w.extractLsb' 0 4 = 0x5 ∧ w.extractLsb' 4 60 = 0) ∧
    (decode w = .instr .isprime ↔ w = 0x0000000000000001) ∧
    (decode w = .instr .gcd ↔ w = 0x0000000000000002) ∧
    (decode w = .instr .modinv ↔ w = 0x0000000000000003) ∧
    (decode w = .instr .keygen ↔ w = 0x0000000000000004) ∧
    (decode w = .instr .modexp ↔ w = 0x0000000000000005) ∧
    ((∃ r, decode w = .reject r) ↔ w.extractLsb' 4 60 ≠ 0 ∨ w.extractLsb' 0 4 = 0x0 ∨ 0x6 ≤ w.extractLsb' 0 4)

/-- Decoding and encoding agree on any bytes: bytes decode to a command, leaving `rest`, exactly when they are the
command's eight bytes followed by `rest` (R70, R72, R73, R58). -/
def Obligations.BytesDecodeExactlyWhenEncoded : Prop :=
  ∀ (bs rest : List Byte) (i : Instr), decodeBytes bs = (.instr i, rest) ↔ bs = encodeBytes i ++ rest

/-! ## Steps and the life of a command -/

/-- A step takes the scheduled turn, whatever it is, and an unscheduled one is free (R12; the schedule is the model's
choice, log entries 1 and 2). -/
def Obligations.StepTakesTheNextTurn : Prop :=
  (∀ (s : State) (t : Turn) (ts : List Turn), s.schedule = t :: ts →
    step s = runTurn t { s with schedule := ts, turnCount := s.turnCount + 1 }) ∧
  (∀ s : State, s.schedule = [] →
    step s = runTurn (Config.freeTurn s.turnCount) { s with turnCount := s.turnCount + 1 })

/-- A step runs the decoded command: in the Engine's turn the command named by ENG_OP runs (R200), and a command placed
by withFetchWord is accepted as R201 says and runs in the very next step (log entry 7). -/
def Obligations.StepRunsTheDecodedCommand : Prop :=
  (∀ (s : State) (i : Instr), nextTurn s = .engine → s.engOp = .op i →
    step s = exec i { s with schedule := s.schedule.tail, turnCount := s.turnCount + 1 }) ∧
  (∀ (s : State) (w : Word) (i : Instr), decode w = .instr i →
    step (s.withFetchWord 64 w.toNat) =
      exec i { s with
        cmd := w
        la := s.opa
        lb := s.opb
        lc := s.opc
        engOp := .op i
        status := { busy := true, done := false, ovr := false, errcode := 0 }
        kg := { phase := .P, p := 0, q := 0, n := 0, phi := 0, rej := 0 }
        turnCount := s.turnCount + 1 })

/-- 60_exceptions.md R201: what acceptance writes, that the KG_* registers are at their reset values then, and that a
later operand write does not reach the command in execution. -/
def Obligations.CmdWriteIsAccepted : Prop :=
  (∀ (s : State) (v : Word), s.status.busy = false →
    hostAccess 0x00 (.write 8 v) s =
      ({ s with
        cmd := v
        la := s.opa
        lb := s.opb
        lc := s.opc
        engOp := EngOp.ofWord v
        status := { busy := true, done := false, ovr := false, errcode := 0 } } : State).responded (.done 0x00)) ∧
  (∀ s : State, s.Inv → s.status.busy = false → s.kg = { phase := .P, p := 0, q := 0, n := 0, phi := 0, rej := 0 }) ∧
  (∀ (s : State) (off : Nat) (v : Word), off = 0x10 ∨ off = 0x18 ∨ off = 0x20 →
    (hostAccess off (.write 8 v) s).la = s.la ∧ (hostAccess off (.write 8 v) s).lb = s.lb ∧
    (hostAccess off (.write 8 v) s).lc = s.lc ∧ (hostAccess off (.write 8 v) s).engOp = s.engOp)

/-- 60_exceptions.md R202: a CMD write while BUSY = 1 sets OVR, changes nothing else, is no BusError, and OVR stays 1
until the next acceptance (or a reset). -/
def Obligations.CmdWriteWhileBusyIsDropped : Prop :=
  (∀ (s : State) (v : Word), s.status.busy = true →
    hostAccess 0x00 (.write 8 v) s =
      ({ s with status := { s.status with ovr := true } } : State).responded (.done 0x00)) ∧
  (∀ s t : State, step s = .next t → s.status.ovr = true → t.status.ovr = false →
    nextTurn s = .reset ∨ (s.status.busy = false ∧ t.status.busy = true))

/-- 30_encoding.md R74 and 60_exceptions.md R210: which words are illegal, that one is accepted like any other, and that
the next Engine step completes it with ILLEGAL_CMD (2) and does nothing else. -/
def Obligations.IllegalWordCompletesWithIllegalCmd : Prop :=
  ∀ w : Word,
    (EngOp.ofWord w = .illegal ↔ w.extractLsb' 4 60 ≠ 0 ∨ w.extractLsb' 0 4 = 0x0 ∨ 0x6 ≤ w.extractLsb' 0 4) ∧
    (∀ s : State, s.status.busy = false → (hostAccess 0x00 (.write 8 w) s).status.busy = true ∧
      (hostAccess 0x00 (.write 8 w) s).engOp = EngOp.ofWord w ∧ (hostAccess 0x00 (.write 8 w) s).cmd = w) ∧
    (∀ s : State, s.engOp = .illegal → runTurn .engine s = .next (s.completed 2))

/-- From 60_exceptions.md R200 (the Engine has an enabled step exactly when BUSY = 1, that is, when ENG_OP is not NONE):
the first clause is R200's equivalence in states that meet the invariant, which holds it as a clause; the second says that
an Engine's turn is without effect exactly when the Engine has no step. That a turn given to an idle Engine is spent and
changes nothing is not R200's word but the model's choice (log entry 3, DESIGN CHOICE). -/
def Obligations.EngineStepsExactlyWhenBusy : Prop :=
  ∀ s : State, s.Inv →
    (s.status.busy = true ↔ s.engOp ≠ .none) ∧
    (s.status.busy = false ↔ runTurn .engine s = .next s)

/-- A command in execution ends only by its completion, in an Engine step, as 60_exceptions.md R203 says, or by a reset
(70_reset_and_hazards.md R251); the KG_* registers are then at their reset values (10_state.md R31). -/
def Obligations.CommandEndsOnlyByCompletionOrReset : Prop :=
  ∀ s t : State, step s = .next t → s.status.busy = true → t.status.busy = false →
    nextTurn s = .reset ∨
    (nextTurn s = .engine ∧ t.status.done = true ∧ t.status.ovr = s.status.ovr ∧ t.engOp = .none ∧
      t.kg = { phase := .P, p := 0, q := 0, n := 0, phi := 0, rej := 0 } ∧
      t.la = s.la ∧ t.lb = s.lb ∧ t.lc = s.lc ∧ t.cmd = s.cmd)

/-- 60_exceptions.md R205: a command that completes with a code other than NONE writes no result register, in its
completion or in any step before it. -/
def Obligations.FailedCommandWritesNoResult : Prop :=
  ∀ s t : State, step s = .next t → nextTurn s ≠ .reset →
    (t.status.busy = true ∨ (s.status.busy = true ∧ t.status.busy = false ∧ t.status.errcode ≠ 0)) →
    t.res0 = s.res0 ∧ t.res1 = s.res1 ∧ t.res2 = s.res2

/-- 10_state.md R22: RES0 to RES2 change only in the Engine step that completes a command without error, or by a reset;
a Host write to them is ignored. -/
def Obligations.ResultsChangeOnlyOnSuccess : Prop :=
  (∀ s t : State, s.Inv → step s = .next t → (t.res0 ≠ s.res0 ∨ t.res1 ≠ s.res1 ∨ t.res2 ≠ s.res2) →
    nextTurn s = .reset ∨
    (nextTurn s = .engine ∧ s.status.busy = true ∧ t.status.busy = false ∧ t.status.done = true ∧
      t.status.errcode = 0)) ∧
  (∀ (s : State) (off : Nat) (v : Word), off = 0x28 ∨ off = 0x30 ∨ off = 0x38 →
    hostAccess off (.write 8 v) s = s.responded (.done off))

/-- 10_state.md R21: OPA, OPB and OPC are written only by Host writes (or a reset), which store the whole value; a read
returns it; no Engine step uses or writes them. -/
def Obligations.OperandsChangeOnlyByHostWrites : Prop :=
  (∀ s t : State, step s = .next t → (t.opa ≠ s.opa ∨ t.opb ≠ s.opb ∨ t.opc ≠ s.opc) →
    nextTurn s = .reset ∨ nextTurn s = .hostLine ∨
    (∃ off v, (off = 0x10 ∨ off = 0x18 ∨ off = 0x20) ∧ nextTurn s = .host off (.write 8 v)) ∨
    (∃ addr off v, (off = 0x10 ∨ off = 0x18 ∨ off = 0x20) ∧ addr = Config.baseAddr + off ∧
      nextTurn s = .bus addr (.write 8 v))) ∧
  (∀ s t : State, nextTurn s = .hostLine → step s = .next t → (t.opa ≠ s.opa ∨ t.opb ≠ s.opb ∨ t.opc ≠ s.opc) →
    ∃ r x, s.host.program[s.host.pc]? = some (.wr r x) ∧ (r = .opa ∨ r = .opb ∨ r = .opc)) ∧
  (∀ (s : State) (v : Word),
    hostAccess 0x10 (.write 8 v) s = ({ s with opa := v } : State).responded (.done 0x10) ∧
    hostAccess 0x18 (.write 8 v) s = ({ s with opb := v } : State).responded (.done 0x18) ∧
    hostAccess 0x20 (.write 8 v) s = ({ s with opc := v } : State).responded (.done 0x20) ∧
    hostAccess 0x10 (.read 8) s = s.responded (.data 0x10 s.opa) ∧
    hostAccess 0x18 (.read 8) s = s.responded (.data 0x18 s.opb) ∧
    hostAccess 0x20 (.read 8) s = s.responded (.data 0x20 s.opc)) ∧
  (∀ (s t : State) (a b c : Word), runTurn .engine s = .next t →
    runTurn .engine { s with opa := a, opb := b, opc := c } = .next { t with opa := a, opb := b, opc := c })

/-- 70_reset_and_hazards.md R262: an operand write during execution is performed, commutes with the Engine's step, and
is what the next accepted command computes on. -/
def Obligations.PreloadingDoesNotDisturbTheCommand : Prop :=
  (∀ (s t : State) (off : Nat) (v : Word), off = 0x10 ∨ off = 0x18 ∨ off = 0x20 → runTurn .engine s = .next t →
    runTurn .engine (hostAccess off (.write 8 v) s) = .next (hostAccess off (.write 8 v) t)) ∧
  (∀ (s : State) (a b c w : Word), s.status.busy = false →
    ∃ t, hostAccess 0x00 (.write 8 w) (hostAccess 0x20 (.write 8 c)
        (hostAccess 0x18 (.write 8 b) (hostAccess 0x10 (.write 8 a) s))) = t ∧
      t.la = a ∧ t.lb = b ∧ t.lc = c ∧ t.opa = a ∧ t.opb = b ∧ t.opc = c)

/-- 10_state.md R23: a command reads no operand that the table does not list for it (here: its copy at acceptance). -/
def Obligations.CommandIgnoresUnlistedOperands : Prop :=
  ∀ (s t : State) (a b c : Word),
    (exec .isprime s = .next t → exec .isprime { s with lb := b, lc := c } = .next { t with lb := b, lc := c }) ∧
    (exec .gcd s = .next t → exec .gcd { s with lc := c } = .next { t with lc := c }) ∧
    (exec .modinv s = .next t → exec .modinv { s with lc := c } = .next { t with lc := c }) ∧
    (exec .keygen s = .next t →
      exec .keygen { s with la := a, lb := b, lc := c } = .next { t with la := a, lb := b, lc := c })

/-- From acceptance to result (R201, R200, R23): a CMD write to an idle block and the Engine's step after it compute on
the operand registers as they were at the write, whatever operand `x` the Host writes to OPA in between. -/
def Obligations.SingleStepCommandRunsFromAcceptance : Prop :=
  ∀ (s : State) (w x : Word) (i : Instr) (ts : List Turn), s.status.busy = false → decode w = .instr i →
    i ≠ .keygen → s.schedule = .host 0x00 (.write 8 w) :: .host 0x10 (.write 8 x) :: .engine :: ts →
    ∃ s₁ s₂ t, step s = .next s₁ ∧ step s₁ = .next s₂ ∧ step s₂ = .next t ∧
      t.status.busy = false ∧ t.status.done = true ∧ t.cmd = w ∧ t.opa = x ∧ t.schedule = ts ∧
      t.res1 = s.res1 ∧ t.res2 = s.res2 ∧ (i = .isprime ∨ i = .gcd → t.status.errcode = 0) ∧
      (i = .isprime → t.res0 = (if Nat.Prime s.opa.toNat then 1 else 0)) ∧
      (i = .gcd → t.res0.toNat = Nat.gcd s.opa.toNat s.opb.toNat) ∧
      (i = .modinv → t.status.errcode = 0 → IsInverse t.res0.toNat s.opa.toNat s.opb.toNat) ∧
      (i = .modexp → s.opc ≠ 0 → t.res0.toNat = s.opa.toNat ^ s.opb.toNat % s.opc.toNat)

/-! ## The register window -/

/-- 20_memory.md R52: a read returns the register at its offset, without a side effect, or is a BusError. -/
def Obligations.HostReadReturnsTheRegister : Prop :=
  ∀ (s : State) (off size : Nat),
    (size ≠ 8 ∨ off % 8 ≠ 0 ∨ off > 0x38 →
      hostAccess off (.read size) s = s.responded (.fault (.busError off))) ∧
    (size = 8 ∧ off % 8 = 0 ∧ off ≤ 0x38 →
      ∃ v, hostAccess off (.read size) s = s.responded (.data off v) ∧
        (off = 0x00 → v = s.cmd) ∧ (off = 0x08 → v = s.status.word) ∧ (off = 0x10 → v = s.opa) ∧
        (off = 0x18 → v = s.opb) ∧ (off = 0x20 → v = s.opc) ∧ (off = 0x28 → v = s.res0) ∧
        (off = 0x30 → v = s.res1) ∧ (off = 0x38 → v = s.res2))

/-- 20_memory.md R53 and R54: what a write does at every offset and size; CMD is CmdWriteIsAccepted and
CmdWriteWhileBusyIsDropped, taken up here by the two cases of BUSY. -/
def Obligations.HostWriteReachesOnlyItsRegister : Prop :=
  ∀ (s : State) (off size : Nat) (v : Word),
    (size ≠ 8 ∨ off % 8 ≠ 0 ∨ off > 0x38 →
      hostAccess off (.write size v) s = s.responded (.fault (.busError off))) ∧
    (size = 8 ∧ off % 8 = 0 ∧ off ≤ 0x38 →
      ∃ t : State, hostAccess off (.write size v) s = t.responded (.done off) ∧
        (off = 0x10 → t = { s with opa := v }) ∧ (off = 0x18 → t = { s with opb := v }) ∧
        (off = 0x20 → t = { s with opc := v }) ∧
        (off = 0x08 ∨ off = 0x28 ∨ off = 0x30 ∨ off = 0x38 → t = s) ∧
        (off = 0x00 → s.status.busy = true → t = { s with status := { s.status with ovr := true } }) ∧
        (off = 0x00 → s.status.busy = false →
          t = { s with
            cmd := v
            la := s.opa
            lb := s.opb
            lc := s.opc
            engOp := EngOp.ofWord v
            status := { busy := true, done := false, ovr := false, errcode := 0 } }))

/-- 20_memory.md R55 and R56: every access that is not 8 bytes at a multiple of 8 within the window is a BusError, which
records its offset, changes nothing of the block, and is never cleared by a later step. -/
def Obligations.BusErrorIsRecordedAndHarmless : Prop :=
  (∀ (s : State) (off size : Nat) (v : Word), size ≠ 8 ∨ off % 8 ≠ 0 ∨ off > 0x38 →
    (hostAccess off (.read size) s).host.log = .fault (.busError off) :: s.host.log ∧
    (hostAccess off (.write size v) s).host.log = .fault (.busError off) :: s.host.log ∧
    s.SameBlock (hostAccess off (.read size) s) ∧ s.SameBlock (hostAccess off (.write size v) s)) ∧
  (∀ (s t : State) (off : Nat), step s = .next t → Response.fault (.busError off) ∈ s.host.log →
    Response.fault (.busError off) ∈ t.host.log)

/-- A platform access at BASE_ADDR + off is the Host access at offset off (00_scope.md R17). The second clause, that one
outside the 64-byte window (20_memory.md R50; base + 0x40 is the first above it) changes nothing and is not logged, is the
model's choice (log entry 8, DEDUCED, unsafe): a platform may report such an access as the BusError that R52 gives for the
offset 0x40, which here is the access named by its offset. -/
def Obligations.PlatformAddressIsBasePlusOffset : Prop :=
  (∀ (s : State) (base off : Nat) (a : Access), off ≤ 0x3F → busAccess base (base + off) a s = hostAccess off a s) ∧
  (∀ (s : State) (base addr : Nat) (a : Access), addr < base ∨ base + 0x40 ≤ addr → busAccess base addr a s = s)

/-- 20_memory.md R58: byte k of the register at offset off holds its bits [8k+7:8k]; the window has 64 bytes (R50). -/
def Obligations.WindowBytesAreLittleEndian : Prop :=
  (∀ (s : State) (r : RegName) (k : Nat), k < 8 →
    windowByte (regOffset r + k) s = some ((readReg r s).extractLsb' (8 * k) 8)) ∧
  (∀ (s : State) (off : Nat), (windowByte off s).isSome ↔ off ≤ 0x3F)

/-- 10_state.md R24: the fields of STATUS as the Host reads them. -/
def Obligations.StatusWordLayout : Prop :=
  ∀ s : State,
    hostAccess 0x08 (.read 8) s = s.responded (.data 0x08 s.status.word) ∧
    s.status.word.getLsbD 0 = s.status.busy ∧ s.status.word.getLsbD 1 = s.status.done ∧
    s.status.word.getLsbD 2 = s.status.ovr ∧ s.status.word.getLsbD 3 = false ∧
    s.status.word.extractLsb' 4 4 = s.status.errcode ∧ s.status.word.extractLsb' 8 56 = 0

/-- 10_state.md R26: a read of CMD returns the last accepted word: CMD changes only by an acceptance or a reset, an
acceptance stores the word written, and the command in execution is that word's. -/
def Obligations.CmdHoldsTheLastAcceptedWord : Prop :=
  (∀ s t : State, step s = .next t → t.cmd ≠ s.cmd →
    nextTurn s = .reset ∨ (s.status.busy = false ∧ t.status.busy = true)) ∧
  (∀ s t : State, step s = .next t → s.status.busy = false → t.status.busy = true →
    t.engOp = EngOp.ofWord t.cmd ∧ t.la = s.opa ∧ t.lb = s.opb ∧ t.lc = s.opc) ∧
  (∀ (s : State) (v : Word), s.status.busy = false → (hostAccess 0x00 (.write 8 v) s).cmd = v) ∧
  (∀ s : State, hostAccess 0x00 (.read 8) s = s.responded (.data 0x00 s.cmd))

/-- 10_state.md R30 and R32: the Host cannot read or write the internal registers: what a Host access answers, and every
host-visible register after it, do not depend on them. -/
def Obligations.HiddenStateIsInvisibleToTheHost : Prop :=
  ∀ (s : State) (off : Nat) (a : Access) (la lb lc : Word) (kg : KgRegs) (e : EngOp),
    (hostAccess off a { s with la := la, lb := lb, lc := lc, kg := kg, engOp := e }).host = (hostAccess off a s).host ∧
    (∀ r, readReg r (hostAccess off a { s with la := la, lb := lb, lc := lc, kg := kg, engOp := e }) =
      readReg r (hostAccess off a s)) ∧
    (hostAccess off a s).kg = s.kg

/-! ## Reset -/

/-- 10_state.md R34: the state after reset. -/
def Obligations.ResetStateValues : Prop :=
  State.reset.cmd = 0 ∧ State.reset.status.word = 0 ∧ State.reset.opa = 0 ∧ State.reset.opb = 0 ∧
  State.reset.opc = 0 ∧ State.reset.res0 = 0 ∧ State.reset.res1 = 0 ∧ State.reset.res2 = 0 ∧
  State.reset.engOp = .none ∧ State.reset.la = 0 ∧ State.reset.lb = 0 ∧ State.reset.lc = 0 ∧
  State.reset.kg.phase = .P ∧ State.reset.kg.p = 0 ∧ State.reset.kg.q = 0 ∧ State.reset.kg.n = 0 ∧
  State.reset.kg.phi = 0 ∧ State.reset.kg.rej = 0 ∧
  State.reset.status.busy = false ∧ State.reset.status.done = false ∧ State.reset.status.ovr = false ∧
  State.reset.status.errcode = 0

/-- From 70_reset_and_hazards.md R250: a reset, at any time, sets every state element of the block to its reset value,
records no error code and consumes no draw. That it keeps the Host and the rest of the schedule, which are the model's own
fields, is the model's choice (log entry 6, DESIGN CHOICE). -/
def Obligations.ResetClearsTheBlock : Prop :=
  ∀ s : State, nextTurn s = .reset →
    ∃ t, step s = .next t ∧ State.reset.SameBlock t ∧
      t.draws = s.draws ∧ t.drawCount = s.drawCount ∧ t.schedule = s.schedule.tail ∧ t.host = s.host

/-! ## ISPRIME, GCD, MODINV, MODEXP -/

/-- ISPRIME (40_primality.md R100 to R103): RES0 says whether LA is a prime; it completes with NONE for every operand and
changes nothing else. -/
def Obligations.IsprimeDecidesPrimality : Prop :=
  ∀ s : State, exec .isprime s =
    .next (({ s with res0 := if Nat.Prime s.la.toNat then 1 else 0 } : State).completed 0)

/-- `isqrt(x)` is the largest s with s*s ≤ x, exact (00_scope.md R16). -/
def Obligations.IsqrtIsExact : Prop :=
  ∀ x : Nat, isqrt x * isqrt x ≤ x ∧ ∀ s : Nat, s * s ≤ x → s ≤ isqrt x

/-- 41_kernel.md R111: the Euclidean algorithm. -/
def Obligations.GcdFollowsEuclid : Prop :=
  (∀ a : Nat, euclidGcd a 0 = a) ∧ (∀ a b : Nat, 0 < b → euclidGcd a b = euclidGcd b (a % b))

/-- GCD (41_kernel.md R110, R113): RES0 is the greatest common divisor, which fits; it completes with NONE for every
pair of operands and changes nothing else. -/
def Obligations.GcdGivesGreatestCommonDivisor : Prop :=
  ∀ s : State, Nat.gcd s.la.toNat s.lb.toNat < 2 ^ 64 ∧
    exec .gcd s = .next (({ s with res0 := BitVec.ofNat 64 (Nat.gcd s.la.toNat s.lb.toNat) } : State).completed 0)

/-- MODINV on coprime operands (41_kernel.md R120, R121, R125): it completes with NONE, RES0 is the inverse in [0, phi),
and nothing else changes. -/
def Obligations.ModinvGivesTheInverse : Prop :=
  ∀ s : State, s.lb ≠ 0 → Nat.gcd s.la.toNat s.lb.toNat = 1 →
    ∃ d, IsInverse d s.la.toNat s.lb.toNat ∧
      exec .modinv s = .next (({ s with res0 := BitVec.ofNat 64 d } : State).completed 0)

/-- MODINV with phi = 0 or operands that are not coprime (41_kernel.md R121 to R123): it completes with NON_INVERTIBLE
(1), no result register is written, and nothing else changes. -/
def Obligations.ModinvReportsNonInvertible : Prop :=
  ∀ s : State, s.lb = 0 ∨ 1 < Nat.gcd s.la.toNat s.lb.toNat → exec .modinv s = .next (s.completed 1)

/-- MODEXP (43_modexp.md R160, R161, R163): DOMAIN (3) for modulus 0 with no result written, else RES0 = (base^exponent)
mod modulus; nothing else changes. -/
def Obligations.ModexpGivesThePower : Prop :=
  decode 0x0000000000000005 = .instr .modexp ∧
  ∀ s : State,
    (s.lc = 0 → exec .modexp s = .next (s.completed 3)) ∧
    (s.lc ≠ 0 → s.la.toNat ^ s.lb.toNat % s.lc.toNat < s.lc.toNat ∧
      exec .modexp s =
        .next (({ s with res0 := BitVec.ofNat 64 (s.la.toNat ^ s.lb.toNat % s.lc.toNat) } : State).completed 0))

/-! ## KEYGEN -/

/-- Phase P (42_keygen.md R133): a prime draw in [2, 1000] becomes KG_P and phase Q begins; any other draw is rejected. -/
def Obligations.KeygenPhasePAcceptsPrimes : Prop :=
  ∀ s : State, s.kg.phase = .P →
    (2 ≤ (nextDraw s).toNat ∧ (nextDraw s).toNat ≤ 1000 ∧ Nat.Prime (nextDraw s).toNat →
      exec .keygen s =
        .next { s.drawn with kg := { s.kg with p := (nextDraw s).toNat, rej := 0, phase := .Q } }) ∧
    (¬(2 ≤ (nextDraw s).toNat ∧ (nextDraw s).toNat ≤ 1000 ∧ Nat.Prime (nextDraw s).toNat) →
      exec .keygen s = .next (s.drawn.rejected Config.kgRetryCap))

/-- Phase Q (42_keygen.md R134): a prime draw in [2, 1000] other than KG_P becomes KG_Q, n = p*q and
phi = (p-1)*(q-1) are computed, and phase E begins; any other draw is rejected. -/
def Obligations.KeygenPhaseQAcceptsAnotherPrime : Prop :=
  ∀ s : State, s.kg.phase = .Q → KeyPrime s.kg.p →
    (2 ≤ (nextDraw s).toNat ∧ (nextDraw s).toNat ≤ 1000 ∧ Nat.Prime (nextDraw s).toNat ∧
        (nextDraw s).toNat ≠ s.kg.p →
      exec .keygen s =
        .next { s.drawn with
          kg := {
            phase := .E
            p := s.kg.p
            q := (nextDraw s).toNat
            n := s.kg.p * (nextDraw s).toNat
            phi := (s.kg.p - 1) * ((nextDraw s).toNat - 1)
            rej := 0 } }) ∧
    (¬(2 ≤ (nextDraw s).toNat ∧ (nextDraw s).toNat ≤ 1000 ∧ Nat.Prime (nextDraw s).toNat ∧
        (nextDraw s).toNat ≠ s.kg.p) →
      exec .keygen s = .next (s.drawn.rejected Config.kgRetryCap))

/-- Phase E (42_keygen.md R135): a draw e in [1, phi] coprime to phi completes the command with NONE, and e, its inverse
and n are the results; any other draw is rejected. The error of R136 does not occur. -/
def Obligations.KeygenPhaseECompletes : Prop :=
  ∀ s : State, s.kg.phase = .E →
    (1 ≤ (nextDraw s).toNat ∧ (nextDraw s).toNat ≤ s.kg.phi ∧ Nat.gcd s.kg.phi (nextDraw s).toNat = 1 →
      ∃ d, IsInverse d (nextDraw s).toNat s.kg.phi ∧
        exec .keygen s =
          .next (({ s.drawn with
            res0 := nextDraw s
            res1 := BitVec.ofNat 64 d
            res2 := BitVec.ofNat 64 s.kg.n } : State).completed 0)) ∧
    (¬(1 ≤ (nextDraw s).toNat ∧ (nextDraw s).toNat ≤ s.kg.phi ∧ Nat.gcd s.kg.phi (nextDraw s).toNat = 1) →
      exec .keygen s = .next (s.drawn.rejected Config.kgRetryCap))

/-- 42_keygen.md R138: without a cap, draws that are never acceptable keep KEYGEN in its phase with BUSY = 1, however
many there are. -/
def Obligations.KeygenHangsWithoutAcceptableDraws : Prop :=
  ∀ (vs : List Nat) (s : State), (∀ v ∈ vs, ¬s.kg.Acceptable v) →
    vs.foldl (fun s v => kgStep none v s) s = { s with kg := { s.kg with rej := s.kg.rej + vs.length } }

/-- 42_keygen.md R137: what rejecting a draw does for every cap; with KG_RETRY_CAP = k, k rejected draws in one loop, and
no fewer, end the command with RETRY_EXHAUSTED (4), with no result written. -/
def Obligations.KeygenEndsWhenTheCapIsUsedUp : Prop :=
  (∀ (cap : Config.RetryCap) (s : State), reject cap s = s.rejected cap) ∧
  (∀ (cap : Config.RetryCap) (v : Nat) (s : State), ¬s.kg.Acceptable v → kgStep cap v s = s.rejected cap) ∧
  (∀ (k : { k : Nat // 0 < k }) (vs : List Nat) (s : State), (∀ v ∈ vs, ¬s.kg.Acceptable v) → s.kg.rej = 0 →
    (vs.length < k.val →
      vs.foldl (fun s v => kgStep (some k) v s) s = { s with kg := { s.kg with rej := vs.length } }) ∧
    (vs.length = k.val → vs.foldl (fun s v => kgStep (some k) v s) s = s.completed 4))

/-- 42_keygen.md R130: each Engine step of KEYGEN consumes exactly one draw, and nothing else that the machine does
consumes any. -/
def Obligations.OnlyKeygenConsumesDraws : Prop :=
  ∀ s t : State, step s = .next t →
    (nextTurn s = .engine ∧ s.engOp = .op .keygen → t.draws = s.draws.tail ∧ t.drawCount = s.drawCount + 1) ∧
    (¬(nextTurn s = .engine ∧ s.engOp = .op .keygen) → t.draws = s.draws ∧ t.drawCount = s.drawCount)

/-- 42_keygen.md R130 and R139: with each draw request the Engine presents the range it samples from; no other command
requests a draw; and a draw outside the range presented is rejected. -/
def Obligations.KeygenPresentsItsSamplingRange : Prop :=
  ∀ s : State,
    (s.engOp ≠ .op .keygen → drawRequest s = none) ∧
    (s.engOp = .op .keygen →
      ∃ lo hi, drawRequest s = some (lo, hi) ∧ (s.kg.phase = .P ∨ s.kg.phase = .Q → lo = 2 ∧ hi = 1000) ∧
        (s.kg.phase = .E → lo = 1 ∧ hi = s.kg.phi) ∧
        ((nextDraw s).toNat < lo ∨ hi < (nextDraw s).toNat →
          exec .keygen s = .next (s.drawn.rejected Config.kgRetryCap)))

/-- 41_kernel.md R127 and 42_keygen.md R136: KEYGEN never completes with NON_INVERTIBLE. -/
def Obligations.KeygenNeverNonInvertible : Prop :=
  ∀ s t : State, s.Inv → s.engOp = .op .keygen → exec .keygen s = .next t →
    t.status.errcode = 0 ∨ t.status.errcode = 4

/-- 42_keygen.md R140: the results of a successful KEYGEN and their bounds. -/
def Obligations.KeypairIsValid : Prop :=
  ∀ s t : State, s.Inv → s.engOp = .op .keygen → runTurn .engine s = .next t →
    t.status.done = true → t.status.errcode = 0 →
    ∃ p q, KeyPrime p ∧ KeyPrime q ∧ p ≠ q ∧ t.res2.toNat = p * q ∧
      2 ≤ (p - 1) * (q - 1) ∧ (p - 1) * (q - 1) ≤ 986040 ∧
      1 ≤ t.res0.toNat ∧ t.res0.toNat < (p - 1) * (q - 1) ∧ Nat.gcd t.res0.toNat ((p - 1) * (q - 1)) = 1 ∧
      t.res1.toNat < (p - 1) * (q - 1) ∧ t.res0.toNat * t.res1.toNat % ((p - 1) * (q - 1)) = 1 ∧
      6 ≤ t.res2.toNat ∧ t.res2.toNat ≤ 988027

/-- 42_keygen.md R141: the keypair of a successful KEYGEN, used with MODEXP, gives back every ordinal below n. -/
def Obligations.KeypairRoundTripsThroughModexp : Prop :=
  ∀ s t : State, s.Inv → s.engOp = .op .keygen → runTurn .engine s = .next t →
    t.status.done = true → t.status.errcode = 0 →
    ∀ c : Nat, c < t.res2.toNat →
      modexp (modexp c t.res0.toNat t.res2.toNat) t.res1.toNat t.res2.toNat = c

/-! ## Invariants -/

/-- The invariants hold after reset (10_state.md R25, R34). -/
def Obligations.ResetMeetsTheInvariants : Prop := State.reset.Inv

/-- Every step keeps the invariants of STATUS (10_state.md R25), of ENG_OP (60_exceptions.md R200) and of the keypair
generator (10_state.md R31, 42_keygen.md R133 to R137). -/
def Obligations.StepKeepsTheInvariants : Prop := ∀ s t : State, s.Inv → step s = .next t → t.Inv

/-- No step faults, and with a well-formed host program every step answers a next state, whatever turn comes next. Of the
block's own errors this is 60_exceptions.md R213 (no trap is taken). Of the Host it is the model's choice: a BusError is
recorded in the Host's log and the machine goes on (log entry 5, DEDUCED from 20_memory.md R56, unsafe), an ill-formed line
is refused, and past the program's end the Host's turn changes nothing (log entry 11, DESIGN CHOICE). -/
def Obligations.WellFormedProgramNeverStopsTheMachine : Prop :=
  (∀ (s : State) (f : Fault), step s ≠ .fault f) ∧
  (∀ s : State, nextTurn s ≠ .hostLine → ∃ t, step s = .next t) ∧
  (∀ s : State, hostProgramWf s.host.program = true → ∃ t, step s = .next t ∧ t.host.program = s.host.program)

/-! ## The Host's notation -/

/-- 30_encoding.md R76: the lines of a host program (a WR line writes a literal below 2^64 or a variable's value; the
latter is DEDUCED, log entry 10). -/
def Obligations.HostLinesMeanTheirTransactions : Prop :=
  (∀ (s : State) (r : RegName) (n : Nat), s.host.program[s.host.pc]? = some (.wr r (.lit n)) → n < 2 ^ 64 →
    runTurn .hostLine s = .next (gotoLine (s.host.pc + 1) (hostAccess (regOffset r) (.write 8 (BitVec.ofNat 64 n)) s))) ∧
  (∀ (s : State) (r : RegName) (x : Nat), s.host.program[s.host.pc]? = some (.wr r (.var x)) →
    runTurn .hostLine s = .next (gotoLine (s.host.pc + 1) (hostAccess (regOffset r) (.write 8 (s.host.readVar x)) s))) ∧
  (∀ (s : State) (r : RegName) (x : Nat), s.host.program[s.host.pc]? = some (.rd x r) →
    ∃ t, runTurn .hostLine s = .next t ∧ t.host.readVar x = readReg r s ∧ t.host.pc = s.host.pc + 1 ∧
      s.SameBlock t ∧ (∀ y, y ≠ x → t.host.readVar y = s.host.readVar y)) ∧
  (∀ (s : State) (x mask l pc : Nat), mask < 2 ^ 64 → labelLine s.host.program l = some pc →
    (s.host.program[s.host.pc]? = some (.bnz x mask l) →
      runTurn .hostLine s =
        .next (gotoLine (if s.host.readVar x &&& BitVec.ofNat 64 mask ≠ 0 then pc else s.host.pc + 1) s)) ∧
    (s.host.program[s.host.pc]? = some (.bz x mask l) →
      runTurn .hostLine s =
        .next (gotoLine (if s.host.readVar x &&& BitVec.ofNat 64 mask = 0 then pc else s.host.pc + 1) s))) ∧
  (∀ (s : State) (l : Nat), s.host.program[s.host.pc]? = some (.label l) →
    runTurn .hostLine s = .next (gotoLine (s.host.pc + 1) s)) ∧
  (∀ s : State, s.host.program[s.host.pc]? = some .halt → runTurn .hostLine s = .next s)

/-- 30_encoding.md R77: WAIT polls STATUS: from its RD line the Host comes back to its label while BUSY = 1, and goes on
after it when BUSY = 0. -/
def Obligations.WaitPollsUntilNotBusy : Prop :=
  ∀ (s : State) (pre post : List HostLine) (lw x : Nat), s.host.program = pre ++ waitLines lw x ++ post →
    lw ∉ hostLabels pre → s.host.pc = pre.length + 1 →
    ∃ s₁ s₂, runTurn .hostLine s = .next s₁ ∧ runTurn .hostLine s₁ = .next s₂ ∧ s.SameBlock s₂ ∧
      s₂.host.readVar x = s.status.word ∧
      s₂.host.pc = if s.status.busy then pre.length else pre.length + 3

/-- 30_encoding.md R77 and R78: what CMD, WAIT and RUN expand to, as bus transactions. -/
def Obligations.PseudoOperationsEncode : Prop :=
  ∀ (h : HostCtx) (a b c : Nat) (lw x : Nat), a < 2 ^ 64 → b < 2 ^ 64 → c < 2 ^ 64 →
    transactions h [cmdLine .modinv] = [(0x00, .write 8 0x0000000000000003)] ∧
    transactions h (waitLines lw x) = [(0x08, .read 8)] ∧
    transactions h (runIsprime (.lit a) lw x) =
      [(0x10, .write 8 (BitVec.ofNat 64 a)), (0x00, .write 8 0x1), (0x08, .read 8)] ∧
    transactions h (runGcd (.lit a) (.lit b) lw x) =
      [(0x10, .write 8 (BitVec.ofNat 64 a)), (0x18, .write 8 (BitVec.ofNat 64 b)), (0x00, .write 8 0x2),
        (0x08, .read 8)] ∧
    transactions h (runModinv (.lit a) (.lit b) lw x) =
      [(0x10, .write 8 (BitVec.ofNat 64 a)), (0x18, .write 8 (BitVec.ofNat 64 b)), (0x00, .write 8 0x3),
        (0x08, .read 8)] ∧
    transactions h (runKeygen lw x) = [(0x00, .write 8 0x4), (0x08, .read 8)] ∧
    transactions h (runModexp (.lit a) (.lit b) (.lit c) lw x) =
      [(0x10, .write 8 (BitVec.ofNat 64 a)), (0x18, .write 8 (BitVec.ofNat 64 b)), (0x20, .write 8 (BitVec.ofNat 64 c)),
        (0x00, .write 8 0x5), (0x08, .read 8)]
end

