-- ==== Sys2Proof/Laws/State.lean ====
section
/-! SUPPORT. What each update of State does to each field: one lemma per field per update, true by rfl. -/

namespace Sys2Proof.Machine

/-! ## `accept` -/

@[simp] theorem accept_cmd (w : Word) (s : State) : (accept w s).cmd = w := rfl
@[simp] theorem accept_status (w : Word) (s : State) : (accept w s).status = s.status.accept := rfl
@[simp] theorem accept_opa (w : Word) (s : State) : (accept w s).opa = s.opa := rfl
@[simp] theorem accept_opb (w : Word) (s : State) : (accept w s).opb = s.opb := rfl
@[simp] theorem accept_opc (w : Word) (s : State) : (accept w s).opc = s.opc := rfl
@[simp] theorem accept_res0 (w : Word) (s : State) : (accept w s).res0 = s.res0 := rfl
@[simp] theorem accept_res1 (w : Word) (s : State) : (accept w s).res1 = s.res1 := rfl
@[simp] theorem accept_res2 (w : Word) (s : State) : (accept w s).res2 = s.res2 := rfl
@[simp] theorem accept_engOp (w : Word) (s : State) : (accept w s).engOp = EngOp.ofWord w := rfl
@[simp] theorem accept_la (w : Word) (s : State) : (accept w s).la = s.opa := rfl
@[simp] theorem accept_lb (w : Word) (s : State) : (accept w s).lb = s.opb := rfl
@[simp] theorem accept_lc (w : Word) (s : State) : (accept w s).lc = s.opc := rfl
@[simp] theorem accept_kg (w : Word) (s : State) : (accept w s).kg = s.kg := rfl
@[simp] theorem accept_schedule (w : Word) (s : State) : (accept w s).schedule = s.schedule := rfl
@[simp] theorem accept_turnCount (w : Word) (s : State) : (accept w s).turnCount = s.turnCount := rfl
@[simp] theorem accept_draws (w : Word) (s : State) : (accept w s).draws = s.draws := rfl
@[simp] theorem accept_drawCount (w : Word) (s : State) : (accept w s).drawCount = s.drawCount := rfl
@[simp] theorem accept_host (w : Word) (s : State) : (accept w s).host = s.host := rfl

/-! ## `overrun` -/

@[simp] theorem overrun_cmd (s : State) : (overrun s).cmd = s.cmd := rfl
@[simp] theorem overrun_status (s : State) : (overrun s).status = s.status.overrun := rfl
@[simp] theorem overrun_opa (s : State) : (overrun s).opa = s.opa := rfl
@[simp] theorem overrun_opb (s : State) : (overrun s).opb = s.opb := rfl
@[simp] theorem overrun_opc (s : State) : (overrun s).opc = s.opc := rfl
@[simp] theorem overrun_res0 (s : State) : (overrun s).res0 = s.res0 := rfl
@[simp] theorem overrun_res1 (s : State) : (overrun s).res1 = s.res1 := rfl
@[simp] theorem overrun_res2 (s : State) : (overrun s).res2 = s.res2 := rfl
@[simp] theorem overrun_engOp (s : State) : (overrun s).engOp = s.engOp := rfl
@[simp] theorem overrun_la (s : State) : (overrun s).la = s.la := rfl
@[simp] theorem overrun_lb (s : State) : (overrun s).lb = s.lb := rfl
@[simp] theorem overrun_lc (s : State) : (overrun s).lc = s.lc := rfl
@[simp] theorem overrun_kg (s : State) : (overrun s).kg = s.kg := rfl
@[simp] theorem overrun_schedule (s : State) : (overrun s).schedule = s.schedule := rfl
@[simp] theorem overrun_turnCount (s : State) : (overrun s).turnCount = s.turnCount := rfl
@[simp] theorem overrun_draws (s : State) : (overrun s).draws = s.draws := rfl
@[simp] theorem overrun_drawCount (s : State) : (overrun s).drawCount = s.drawCount := rfl
@[simp] theorem overrun_host (s : State) : (overrun s).host = s.host := rfl

/-! ## `complete` -/

@[simp] theorem complete_cmd (c : ErrCode) (s : State) : (complete c s).cmd = s.cmd := rfl
@[simp] theorem complete_status (c : ErrCode) (s : State) : (complete c s).status = s.status.complete c := rfl
@[simp] theorem complete_opa (c : ErrCode) (s : State) : (complete c s).opa = s.opa := rfl
@[simp] theorem complete_opb (c : ErrCode) (s : State) : (complete c s).opb = s.opb := rfl
@[simp] theorem complete_opc (c : ErrCode) (s : State) : (complete c s).opc = s.opc := rfl
@[simp] theorem complete_res0 (c : ErrCode) (s : State) : (complete c s).res0 = s.res0 := rfl
@[simp] theorem complete_res1 (c : ErrCode) (s : State) : (complete c s).res1 = s.res1 := rfl
@[simp] theorem complete_res2 (c : ErrCode) (s : State) : (complete c s).res2 = s.res2 := rfl
@[simp] theorem complete_engOp (c : ErrCode) (s : State) : (complete c s).engOp = .none := rfl
@[simp] theorem complete_la (c : ErrCode) (s : State) : (complete c s).la = s.la := rfl
@[simp] theorem complete_lb (c : ErrCode) (s : State) : (complete c s).lb = s.lb := rfl
@[simp] theorem complete_lc (c : ErrCode) (s : State) : (complete c s).lc = s.lc := rfl
@[simp] theorem complete_kg (c : ErrCode) (s : State) : (complete c s).kg = KgRegs.reset := rfl
@[simp] theorem complete_schedule (c : ErrCode) (s : State) : (complete c s).schedule = s.schedule := rfl
@[simp] theorem complete_turnCount (c : ErrCode) (s : State) : (complete c s).turnCount = s.turnCount := rfl
@[simp] theorem complete_draws (c : ErrCode) (s : State) : (complete c s).draws = s.draws := rfl
@[simp] theorem complete_drawCount (c : ErrCode) (s : State) : (complete c s).drawCount = s.drawCount := rfl
@[simp] theorem complete_host (c : ErrCode) (s : State) : (complete c s).host = s.host := rfl

/-! ## `writeRes0` -/

@[simp] theorem writeRes0_cmd (v : Word) (s : State) : (writeRes0 v s).cmd = s.cmd := rfl
@[simp] theorem writeRes0_status (v : Word) (s : State) : (writeRes0 v s).status = s.status := rfl
@[simp] theorem writeRes0_opa (v : Word) (s : State) : (writeRes0 v s).opa = s.opa := rfl
@[simp] theorem writeRes0_opb (v : Word) (s : State) : (writeRes0 v s).opb = s.opb := rfl
@[simp] theorem writeRes0_opc (v : Word) (s : State) : (writeRes0 v s).opc = s.opc := rfl
@[simp] theorem writeRes0_res0 (v : Word) (s : State) : (writeRes0 v s).res0 = v := rfl
@[simp] theorem writeRes0_res1 (v : Word) (s : State) : (writeRes0 v s).res1 = s.res1 := rfl
@[simp] theorem writeRes0_res2 (v : Word) (s : State) : (writeRes0 v s).res2 = s.res2 := rfl
@[simp] theorem writeRes0_engOp (v : Word) (s : State) : (writeRes0 v s).engOp = s.engOp := rfl
@[simp] theorem writeRes0_la (v : Word) (s : State) : (writeRes0 v s).la = s.la := rfl
@[simp] theorem writeRes0_lb (v : Word) (s : State) : (writeRes0 v s).lb = s.lb := rfl
@[simp] theorem writeRes0_lc (v : Word) (s : State) : (writeRes0 v s).lc = s.lc := rfl
@[simp] theorem writeRes0_kg (v : Word) (s : State) : (writeRes0 v s).kg = s.kg := rfl
@[simp] theorem writeRes0_schedule (v : Word) (s : State) : (writeRes0 v s).schedule = s.schedule := rfl
@[simp] theorem writeRes0_turnCount (v : Word) (s : State) : (writeRes0 v s).turnCount = s.turnCount := rfl
@[simp] theorem writeRes0_draws (v : Word) (s : State) : (writeRes0 v s).draws = s.draws := rfl
@[simp] theorem writeRes0_drawCount (v : Word) (s : State) : (writeRes0 v s).drawCount = s.drawCount := rfl
@[simp] theorem writeRes0_host (v : Word) (s : State) : (writeRes0 v s).host = s.host := rfl

/-! ## `writeKeypair` -/

@[simp] theorem writeKeypair_cmd (e d n : Word) (s : State) : (writeKeypair e d n s).cmd = s.cmd := rfl
@[simp] theorem writeKeypair_status (e d n : Word) (s : State) : (writeKeypair e d n s).status = s.status := rfl
@[simp] theorem writeKeypair_opa (e d n : Word) (s : State) : (writeKeypair e d n s).opa = s.opa := rfl
@[simp] theorem writeKeypair_opb (e d n : Word) (s : State) : (writeKeypair e d n s).opb = s.opb := rfl
@[simp] theorem writeKeypair_opc (e d n : Word) (s : State) : (writeKeypair e d n s).opc = s.opc := rfl
@[simp] theorem writeKeypair_res0 (e d n : Word) (s : State) : (writeKeypair e d n s).res0 = e := rfl
@[simp] theorem writeKeypair_res1 (e d n : Word) (s : State) : (writeKeypair e d n s).res1 = d := rfl
@[simp] theorem writeKeypair_res2 (e d n : Word) (s : State) : (writeKeypair e d n s).res2 = n := rfl
@[simp] theorem writeKeypair_engOp (e d n : Word) (s : State) : (writeKeypair e d n s).engOp = s.engOp := rfl
@[simp] theorem writeKeypair_la (e d n : Word) (s : State) : (writeKeypair e d n s).la = s.la := rfl
@[simp] theorem writeKeypair_lb (e d n : Word) (s : State) : (writeKeypair e d n s).lb = s.lb := rfl
@[simp] theorem writeKeypair_lc (e d n : Word) (s : State) : (writeKeypair e d n s).lc = s.lc := rfl
@[simp] theorem writeKeypair_kg (e d n : Word) (s : State) : (writeKeypair e d n s).kg = s.kg := rfl
@[simp] theorem writeKeypair_schedule (e d n : Word) (s : State) : (writeKeypair e d n s).schedule = s.schedule := rfl
@[simp] theorem writeKeypair_turnCount (e d n : Word) (s : State) : (writeKeypair e d n s).turnCount = s.turnCount := rfl
@[simp] theorem writeKeypair_draws (e d n : Word) (s : State) : (writeKeypair e d n s).draws = s.draws := rfl
@[simp] theorem writeKeypair_drawCount (e d n : Word) (s : State) : (writeKeypair e d n s).drawCount = s.drawCount := rfl
@[simp] theorem writeKeypair_host (e d n : Word) (s : State) : (writeKeypair e d n s).host = s.host := rfl

/-! ## `setKg` -/

@[simp] theorem setKg_cmd (k : KgRegs) (s : State) : (setKg k s).cmd = s.cmd := rfl
@[simp] theorem setKg_status (k : KgRegs) (s : State) : (setKg k s).status = s.status := rfl
@[simp] theorem setKg_opa (k : KgRegs) (s : State) : (setKg k s).opa = s.opa := rfl
@[simp] theorem setKg_opb (k : KgRegs) (s : State) : (setKg k s).opb = s.opb := rfl
@[simp] theorem setKg_opc (k : KgRegs) (s : State) : (setKg k s).opc = s.opc := rfl
@[simp] theorem setKg_res0 (k : KgRegs) (s : State) : (setKg k s).res0 = s.res0 := rfl
@[simp] theorem setKg_res1 (k : KgRegs) (s : State) : (setKg k s).res1 = s.res1 := rfl
@[simp] theorem setKg_res2 (k : KgRegs) (s : State) : (setKg k s).res2 = s.res2 := rfl
@[simp] theorem setKg_engOp (k : KgRegs) (s : State) : (setKg k s).engOp = s.engOp := rfl
@[simp] theorem setKg_la (k : KgRegs) (s : State) : (setKg k s).la = s.la := rfl
@[simp] theorem setKg_lb (k : KgRegs) (s : State) : (setKg k s).lb = s.lb := rfl
@[simp] theorem setKg_lc (k : KgRegs) (s : State) : (setKg k s).lc = s.lc := rfl
@[simp] theorem setKg_kg (k : KgRegs) (s : State) : (setKg k s).kg = k := rfl
@[simp] theorem setKg_schedule (k : KgRegs) (s : State) : (setKg k s).schedule = s.schedule := rfl
@[simp] theorem setKg_turnCount (k : KgRegs) (s : State) : (setKg k s).turnCount = s.turnCount := rfl
@[simp] theorem setKg_draws (k : KgRegs) (s : State) : (setKg k s).draws = s.draws := rfl
@[simp] theorem setKg_drawCount (k : KgRegs) (s : State) : (setKg k s).drawCount = s.drawCount := rfl
@[simp] theorem setKg_host (k : KgRegs) (s : State) : (setKg k s).host = s.host := rfl

/-! ## `resetBlock` -/

@[simp] theorem resetBlock_cmd (s : State) : (resetBlock s).cmd = 0 := rfl
@[simp] theorem resetBlock_status (s : State) : (resetBlock s).status = Status.reset := rfl
@[simp] theorem resetBlock_opa (s : State) : (resetBlock s).opa = 0 := rfl
@[simp] theorem resetBlock_opb (s : State) : (resetBlock s).opb = 0 := rfl
@[simp] theorem resetBlock_opc (s : State) : (resetBlock s).opc = 0 := rfl
@[simp] theorem resetBlock_res0 (s : State) : (resetBlock s).res0 = 0 := rfl
@[simp] theorem resetBlock_res1 (s : State) : (resetBlock s).res1 = 0 := rfl
@[simp] theorem resetBlock_res2 (s : State) : (resetBlock s).res2 = 0 := rfl
@[simp] theorem resetBlock_engOp (s : State) : (resetBlock s).engOp = .none := rfl
@[simp] theorem resetBlock_la (s : State) : (resetBlock s).la = 0 := rfl
@[simp] theorem resetBlock_lb (s : State) : (resetBlock s).lb = 0 := rfl
@[simp] theorem resetBlock_lc (s : State) : (resetBlock s).lc = 0 := rfl
@[simp] theorem resetBlock_kg (s : State) : (resetBlock s).kg = KgRegs.reset := rfl
@[simp] theorem resetBlock_schedule (s : State) : (resetBlock s).schedule = s.schedule := rfl
@[simp] theorem resetBlock_turnCount (s : State) : (resetBlock s).turnCount = s.turnCount := rfl
@[simp] theorem resetBlock_draws (s : State) : (resetBlock s).draws = s.draws := rfl
@[simp] theorem resetBlock_drawCount (s : State) : (resetBlock s).drawCount = s.drawCount := rfl
@[simp] theorem resetBlock_host (s : State) : (resetBlock s).host = s.host := rfl

/-! ## `respond` -/

@[simp] theorem respond_cmd (r : Response) (s : State) : (respond r s).cmd = s.cmd := rfl
@[simp] theorem respond_status (r : Response) (s : State) : (respond r s).status = s.status := rfl
@[simp] theorem respond_opa (r : Response) (s : State) : (respond r s).opa = s.opa := rfl
@[simp] theorem respond_opb (r : Response) (s : State) : (respond r s).opb = s.opb := rfl
@[simp] theorem respond_opc (r : Response) (s : State) : (respond r s).opc = s.opc := rfl
@[simp] theorem respond_res0 (r : Response) (s : State) : (respond r s).res0 = s.res0 := rfl
@[simp] theorem respond_res1 (r : Response) (s : State) : (respond r s).res1 = s.res1 := rfl
@[simp] theorem respond_res2 (r : Response) (s : State) : (respond r s).res2 = s.res2 := rfl
@[simp] theorem respond_engOp (r : Response) (s : State) : (respond r s).engOp = s.engOp := rfl
@[simp] theorem respond_la (r : Response) (s : State) : (respond r s).la = s.la := rfl
@[simp] theorem respond_lb (r : Response) (s : State) : (respond r s).lb = s.lb := rfl
@[simp] theorem respond_lc (r : Response) (s : State) : (respond r s).lc = s.lc := rfl
@[simp] theorem respond_kg (r : Response) (s : State) : (respond r s).kg = s.kg := rfl
@[simp] theorem respond_schedule (r : Response) (s : State) : (respond r s).schedule = s.schedule := rfl
@[simp] theorem respond_turnCount (r : Response) (s : State) : (respond r s).turnCount = s.turnCount := rfl
@[simp] theorem respond_draws (r : Response) (s : State) : (respond r s).draws = s.draws := rfl
@[simp] theorem respond_drawCount (r : Response) (s : State) : (respond r s).drawCount = s.drawCount := rfl
@[simp] theorem respond_host (r : Response) (s : State) : (respond r s).host = { s.host with log := r :: s.host.log } := rfl

/-! ## `consumeDraw` -/

@[simp] theorem consumeDraw_cmd (s : State) : (consumeDraw s).cmd = s.cmd := rfl
@[simp] theorem consumeDraw_status (s : State) : (consumeDraw s).status = s.status := rfl
@[simp] theorem consumeDraw_opa (s : State) : (consumeDraw s).opa = s.opa := rfl
@[simp] theorem consumeDraw_opb (s : State) : (consumeDraw s).opb = s.opb := rfl
@[simp] theorem consumeDraw_opc (s : State) : (consumeDraw s).opc = s.opc := rfl
@[simp] theorem consumeDraw_res0 (s : State) : (consumeDraw s).res0 = s.res0 := rfl
@[simp] theorem consumeDraw_res1 (s : State) : (consumeDraw s).res1 = s.res1 := rfl
@[simp] theorem consumeDraw_res2 (s : State) : (consumeDraw s).res2 = s.res2 := rfl
@[simp] theorem consumeDraw_engOp (s : State) : (consumeDraw s).engOp = s.engOp := rfl
@[simp] theorem consumeDraw_la (s : State) : (consumeDraw s).la = s.la := rfl
@[simp] theorem consumeDraw_lb (s : State) : (consumeDraw s).lb = s.lb := rfl
@[simp] theorem consumeDraw_lc (s : State) : (consumeDraw s).lc = s.lc := rfl
@[simp] theorem consumeDraw_kg (s : State) : (consumeDraw s).kg = s.kg := rfl
@[simp] theorem consumeDraw_schedule (s : State) : (consumeDraw s).schedule = s.schedule := rfl
@[simp] theorem consumeDraw_turnCount (s : State) : (consumeDraw s).turnCount = s.turnCount := rfl
@[simp] theorem consumeDraw_draws (s : State) : (consumeDraw s).draws = s.draws.tail := rfl
@[simp] theorem consumeDraw_drawCount (s : State) : (consumeDraw s).drawCount = s.drawCount + 1 := rfl
@[simp] theorem consumeDraw_host (s : State) : (consumeDraw s).host = s.host := rfl

/-! ## `takeTurn` -/

@[simp] theorem takeTurn_cmd (s : State) : (takeTurn s).cmd = s.cmd := rfl
@[simp] theorem takeTurn_status (s : State) : (takeTurn s).status = s.status := rfl
@[simp] theorem takeTurn_opa (s : State) : (takeTurn s).opa = s.opa := rfl
@[simp] theorem takeTurn_opb (s : State) : (takeTurn s).opb = s.opb := rfl
@[simp] theorem takeTurn_opc (s : State) : (takeTurn s).opc = s.opc := rfl
@[simp] theorem takeTurn_res0 (s : State) : (takeTurn s).res0 = s.res0 := rfl
@[simp] theorem takeTurn_res1 (s : State) : (takeTurn s).res1 = s.res1 := rfl
@[simp] theorem takeTurn_res2 (s : State) : (takeTurn s).res2 = s.res2 := rfl
@[simp] theorem takeTurn_engOp (s : State) : (takeTurn s).engOp = s.engOp := rfl
@[simp] theorem takeTurn_la (s : State) : (takeTurn s).la = s.la := rfl
@[simp] theorem takeTurn_lb (s : State) : (takeTurn s).lb = s.lb := rfl
@[simp] theorem takeTurn_lc (s : State) : (takeTurn s).lc = s.lc := rfl
@[simp] theorem takeTurn_kg (s : State) : (takeTurn s).kg = s.kg := rfl
@[simp] theorem takeTurn_schedule (s : State) : (takeTurn s).schedule = s.schedule.tail := rfl
@[simp] theorem takeTurn_turnCount (s : State) : (takeTurn s).turnCount = s.turnCount + 1 := rfl
@[simp] theorem takeTurn_draws (s : State) : (takeTurn s).draws = s.draws := rfl
@[simp] theorem takeTurn_drawCount (s : State) : (takeTurn s).drawCount = s.drawCount := rfl
@[simp] theorem takeTurn_host (s : State) : (takeTurn s).host = s.host := rfl

/-! ## `setVar` -/

@[simp] theorem setVar_cmd (x : Nat) (v : Word) (s : State) : (setVar x v s).cmd = s.cmd := rfl
@[simp] theorem setVar_status (x : Nat) (v : Word) (s : State) : (setVar x v s).status = s.status := rfl
@[simp] theorem setVar_opa (x : Nat) (v : Word) (s : State) : (setVar x v s).opa = s.opa := rfl
@[simp] theorem setVar_opb (x : Nat) (v : Word) (s : State) : (setVar x v s).opb = s.opb := rfl
@[simp] theorem setVar_opc (x : Nat) (v : Word) (s : State) : (setVar x v s).opc = s.opc := rfl
@[simp] theorem setVar_res0 (x : Nat) (v : Word) (s : State) : (setVar x v s).res0 = s.res0 := rfl
@[simp] theorem setVar_res1 (x : Nat) (v : Word) (s : State) : (setVar x v s).res1 = s.res1 := rfl
@[simp] theorem setVar_res2 (x : Nat) (v : Word) (s : State) : (setVar x v s).res2 = s.res2 := rfl
@[simp] theorem setVar_engOp (x : Nat) (v : Word) (s : State) : (setVar x v s).engOp = s.engOp := rfl
@[simp] theorem setVar_la (x : Nat) (v : Word) (s : State) : (setVar x v s).la = s.la := rfl
@[simp] theorem setVar_lb (x : Nat) (v : Word) (s : State) : (setVar x v s).lb = s.lb := rfl
@[simp] theorem setVar_lc (x : Nat) (v : Word) (s : State) : (setVar x v s).lc = s.lc := rfl
@[simp] theorem setVar_kg (x : Nat) (v : Word) (s : State) : (setVar x v s).kg = s.kg := rfl
@[simp] theorem setVar_schedule (x : Nat) (v : Word) (s : State) : (setVar x v s).schedule = s.schedule := rfl
@[simp] theorem setVar_turnCount (x : Nat) (v : Word) (s : State) : (setVar x v s).turnCount = s.turnCount := rfl
@[simp] theorem setVar_draws (x : Nat) (v : Word) (s : State) : (setVar x v s).draws = s.draws := rfl
@[simp] theorem setVar_drawCount (x : Nat) (v : Word) (s : State) : (setVar x v s).drawCount = s.drawCount := rfl
@[simp] theorem setVar_host (x : Nat) (v : Word) (s : State) : (setVar x v s).host = { s.host with vars := setVarList x v s.host.vars } := rfl

/-! ## `gotoLine` -/

@[simp] theorem gotoLine_cmd (n : Nat) (s : State) : (gotoLine n s).cmd = s.cmd := rfl
@[simp] theorem gotoLine_status (n : Nat) (s : State) : (gotoLine n s).status = s.status := rfl
@[simp] theorem gotoLine_opa (n : Nat) (s : State) : (gotoLine n s).opa = s.opa := rfl
@[simp] theorem gotoLine_opb (n : Nat) (s : State) : (gotoLine n s).opb = s.opb := rfl
@[simp] theorem gotoLine_opc (n : Nat) (s : State) : (gotoLine n s).opc = s.opc := rfl
@[simp] theorem gotoLine_res0 (n : Nat) (s : State) : (gotoLine n s).res0 = s.res0 := rfl
@[simp] theorem gotoLine_res1 (n : Nat) (s : State) : (gotoLine n s).res1 = s.res1 := rfl
@[simp] theorem gotoLine_res2 (n : Nat) (s : State) : (gotoLine n s).res2 = s.res2 := rfl
@[simp] theorem gotoLine_engOp (n : Nat) (s : State) : (gotoLine n s).engOp = s.engOp := rfl
@[simp] theorem gotoLine_la (n : Nat) (s : State) : (gotoLine n s).la = s.la := rfl
@[simp] theorem gotoLine_lb (n : Nat) (s : State) : (gotoLine n s).lb = s.lb := rfl
@[simp] theorem gotoLine_lc (n : Nat) (s : State) : (gotoLine n s).lc = s.lc := rfl
@[simp] theorem gotoLine_kg (n : Nat) (s : State) : (gotoLine n s).kg = s.kg := rfl
@[simp] theorem gotoLine_schedule (n : Nat) (s : State) : (gotoLine n s).schedule = s.schedule := rfl
@[simp] theorem gotoLine_turnCount (n : Nat) (s : State) : (gotoLine n s).turnCount = s.turnCount := rfl
@[simp] theorem gotoLine_draws (n : Nat) (s : State) : (gotoLine n s).draws = s.draws := rfl
@[simp] theorem gotoLine_drawCount (n : Nat) (s : State) : (gotoLine n s).drawCount = s.drawCount := rfl
@[simp] theorem gotoLine_host (n : Nat) (s : State) : (gotoLine n s).host = { s.host with pc := n } := rfl

/-! ## STATUS -/

@[simp] theorem Status.accept_busy (st : Status) : st.accept.busy = true := rfl
@[simp] theorem Status.accept_done (st : Status) : st.accept.done = false := rfl
@[simp] theorem Status.accept_ovr (st : Status) : st.accept.ovr = false := rfl
@[simp] theorem Status.accept_errcode (st : Status) : st.accept.errcode = 0 := rfl
@[simp] theorem Status.overrun_busy (st : Status) : st.overrun.busy = st.busy := rfl
@[simp] theorem Status.overrun_done (st : Status) : st.overrun.done = st.done := rfl
@[simp] theorem Status.overrun_ovr (st : Status) : st.overrun.ovr = true := rfl
@[simp] theorem Status.overrun_errcode (st : Status) : st.overrun.errcode = st.errcode := rfl
@[simp] theorem Status.complete_busy (c : ErrCode) (st : Status) : (st.complete c).busy = false := rfl
@[simp] theorem Status.complete_done (c : ErrCode) (st : Status) : (st.complete c).done = true := rfl
@[simp] theorem Status.complete_ovr (c : ErrCode) (st : Status) : (st.complete c).ovr = st.ovr := rfl
@[simp] theorem Status.complete_errcode (c : ErrCode) (st : Status) : (st.complete c).errcode = c.code := rfl

end Sys2Proof.Machine
end

