-- ==== Sys2Proof/Laws/Ops.lean ====
section
/-! SUPPORT. One lemma per shared operation: everything it can do. -/

namespace Sys2Proof.Machine

/-! ## Register window -/

@[simp] theorem nameAt_regOffset (r : RegName) : nameAt (regOffset r) = some r := by cases r <;> rfl

/-- An 8-byte access at a register's offset reaches that register. -/
@[simp] theorem accessReg_regOffset (r : RegName) : accessReg (regOffset r) 8 = some r := by cases r <;> rfl

/-- Every offset with a register is that register's. -/
theorem regOffset_of_nameAt {off : Nat} {r : RegName} (h : nameAt off = some r) : regOffset r = off := by
  unfold nameAt at h
  split at h <;> simp only [Option.some.injEq, reduceCtorEq] at h <;> subst h <;> rfl

/-- Every legal offset has a register (20_memory.md R50, R60). -/
theorem nameAt_isSome {off : Nat} (h8 : off % 8 = 0) (hle : off ≤ 0x38) : (nameAt off).isSome := by
  have : off = 0 ∨ off = 8 ∨ off = 16 ∨ off = 24 ∨ off = 32 ∨ off = 40 ∨ off = 48 ∨ off = 56 := by omega
  rcases this with h | h | h | h | h | h | h | h <;> subst h <;> rfl

/-- An access reaches register `r` exactly when it is 8 bytes at the register's offset. -/
theorem accessReg_eq_some {off size : Nat} {r : RegName} :
    accessReg off size = some r ↔ size = 8 ∧ off = regOffset r := by
  constructor
  · intro h
    unfold accessReg at h
    split at h
    · cases h
    · rename_i hc
      exact ⟨by omega, (regOffset_of_nameAt h).symm⟩
  · rintro ⟨rfl, rfl⟩
    exact accessReg_regOffset r

/-- An access is a BusError exactly when its size, its alignment or its offset is wrong (R52, R53, R55). -/
theorem accessReg_eq_none {off size : Nat} :
    accessReg off size = none ↔ size ≠ 8 ∨ off % 8 ≠ 0 ∨ off > 0x38 := by
  unfold accessReg
  split
  · rename_i h
    exact ⟨fun _ => h, fun _ => rfl⟩
  · rename_i h
    have := nameAt_isSome (off := off) (by omega) (by omega)
    constructor
    · intro hn
      rw [hn] at this
      cases this
    · exact fun hc => absurd hc h

/-! ## What a register write and an access can do -/

/-- A register write is one of: an operand's new value, a command accepted or dropped, or nothing. -/
theorem writeReg_cases (r : RegName) (v : Word) (s : State) :
    (r = .opa ∧ writeReg r v s = { s with opa := v }) ∨
    (r = .opb ∧ writeReg r v s = { s with opb := v }) ∨
    (r = .opc ∧ writeReg r v s = { s with opc := v }) ∨
    (r = .cmd ∧ s.status.busy = true ∧ writeReg r v s = overrun s) ∨
    (r = .cmd ∧ s.status.busy = false ∧ writeReg r v s = accept v s) ∨
    ((r = .status ∨ r = .res0 ∨ r = .res1 ∨ r = .res2) ∧ writeReg r v s = s) := by
  cases r with
  | cmd => cases h : s.status.busy <;> simp [writeReg, commandWrite, h]
  | _ => simp [writeReg]

/-- A register write leaves the results, the keypair generator's registers and the environment alone. -/
theorem writeReg_frame (r : RegName) (v : Word) (s : State) :
    (writeReg r v s).res0 = s.res0 ∧ (writeReg r v s).res1 = s.res1 ∧ (writeReg r v s).res2 = s.res2 ∧
    (writeReg r v s).kg = s.kg ∧ (writeReg r v s).schedule = s.schedule ∧
    (writeReg r v s).turnCount = s.turnCount ∧ (writeReg r v s).draws = s.draws ∧
    (writeReg r v s).drawCount = s.drawCount ∧ (writeReg r v s).host = s.host := by
  rcases writeReg_cases r v s with ⟨-, h⟩ | ⟨-, h⟩ | ⟨-, h⟩ | ⟨-, -, h⟩ | ⟨-, -, h⟩ | ⟨-, h⟩ <;> rw [h] <;> simp

/-- A Host access is one of: a register's value returned, a register written, or a BusError. -/
theorem hostAccess_cases (off : Nat) (a : Access) (s : State) :
    (∃ r, a = .read 8 ∧ off = regOffset r ∧ hostAccess off a s = respond (.data off (readReg r s)) s) ∨
    (∃ r v, a = .write 8 v ∧ off = regOffset r ∧ hostAccess off a s = respond (.done off) (writeReg r v s)) ∨
    hostAccess off a s = respond (.fault (.busError off)) s := by
  cases a with
  | read size =>
    simp only [hostAccess, hostRead]
    split
    · rename_i r hr
      obtain ⟨rfl, rfl⟩ := accessReg_eq_some.mp hr
      exact .inl ⟨r, rfl, rfl, rfl⟩
    · exact .inr (.inr rfl)
  | write size v =>
    simp only [hostAccess, hostWrite]
    split
    · rename_i r hr
      obtain ⟨rfl, rfl⟩ := accessReg_eq_some.mp hr
      exact .inr (.inl ⟨r, v, rfl, rfl, rfl⟩)
    · exact .inr (.inr rfl)

/-- A platform access is a Host access at the offset of its address, or nothing. -/
theorem busAccess_cases (base addr : Nat) (a : Access) (s : State) :
    (base ≤ addr ∧ addr < base + 0x40 ∧ busAccess base addr a s = hostAccess (addr - base) a s) ∨
    (¬(base ≤ addr ∧ addr < base + 0x40) ∧ busAccess base addr a s = s) := by
  unfold busAccess windowOffset
  by_cases h : base ≤ addr ∧ addr < base + 0x40
  · exact .inl ⟨h.1, h.2, by simp [h]⟩
  · exact .inr ⟨h, by simp [h]⟩

/-! ## What a command's Engine step can do -/

/-- A rejected draw counts, or exhausts the cap. -/
theorem reject_cases (cap : Config.RetryCap) (s : State) :
    ((∀ k, cap = some k → s.kg.rej + 1 < k.val) ∧
      reject cap s = setKg { s.kg with rej := s.kg.rej + 1 } s) ∨
    (∃ k, cap = some k ∧ k.val ≤ s.kg.rej + 1 ∧ reject cap s = complete .retryExhausted s) := by
  cases cap with
  | none => exact .inl ⟨by simp, rfl⟩
  | some k =>
    by_cases h : k.val ≤ s.kg.rej + 1
    · exact .inr ⟨k, rfl, h, by simp [reject, h]⟩
    · refine .inl ⟨?_, by simp [reject, h]⟩
      rintro _ ⟨⟩
      omega

/-- An Engine step of KEYGEN keeps everything but the results, STATUS, ENG_OP and the KG_* registers. -/
theorem kgStep_frame (cap : Config.RetryCap) (v : Nat) (s : State) :
    (kgStep cap v s).cmd = s.cmd ∧ (kgStep cap v s).opa = s.opa ∧ (kgStep cap v s).opb = s.opb ∧
    (kgStep cap v s).opc = s.opc ∧ (kgStep cap v s).la = s.la ∧ (kgStep cap v s).lb = s.lb ∧
    (kgStep cap v s).lc = s.lc ∧ (kgStep cap v s).draws = s.draws ∧ (kgStep cap v s).drawCount = s.drawCount ∧
    (kgStep cap v s).schedule = s.schedule ∧ (kgStep cap v s).turnCount = s.turnCount ∧
    (kgStep cap v s).host = s.host := by
  have hr : ∀ s : State, reject cap s = setKg { s.kg with rej := s.kg.rej + 1 } s ∨
      reject cap s = complete .retryExhausted s := fun s =>
    (reject_cases cap s).elim (fun h => .inl h.2) fun ⟨_, _, _, h⟩ => .inr h
  unfold kgStep stepP stepQ stepE completeKeypair
  split <;> split <;> try split
  all_goals first
    | exact ⟨rfl, rfl, rfl, rfl, rfl, rfl, rfl, rfl, rfl, rfl, rfl, rfl⟩
    | rcases hr s with h | h <;> rw [h] <;> exact ⟨rfl, rfl, rfl, rfl, rfl, rfl, rfl, rfl, rfl, rfl, rfl, rfl⟩

/-- The Engine step of every command ends in a next state. -/
theorem exec_next (i : Instr) (s : State) : ∃ t, exec i s = .next t := by
  cases i <;> exact ⟨_, rfl⟩

/-- The Engine's turn is idle, a command's Engine step, or an illegal word's completion. -/
theorem engineTurn_cases (s : State) :
    (s.engOp = .none ∧ engineTurn s = .next s) ∨
    (∃ i, s.engOp = .op i ∧ engineTurn s = exec i s) ∨
    (s.engOp = .illegal ∧ engineTurn s = .next (complete .illegalCmd s)) := by
  unfold engineTurn execIllegal
  cases h : s.engOp <;> simp

/-- The Engine's turn always ends in a next state. -/
theorem engineTurn_next (s : State) : ∃ t, engineTurn s = .next t := by
  rcases engineTurn_cases s with ⟨-, h⟩ | ⟨i, -, h⟩ | ⟨-, h⟩
  · exact ⟨_, h⟩
  · exact h ▸ exec_next i s
  · exact ⟨_, h⟩

/-- What the Engine's turn leaves alone: CMD, the operands and their copies, the schedule and the Host. -/
theorem engineTurn_frame {s t : State} (h : engineTurn s = .next t) :
    t.cmd = s.cmd ∧ t.opa = s.opa ∧ t.opb = s.opb ∧ t.opc = s.opc ∧ t.la = s.la ∧ t.lb = s.lb ∧ t.lc = s.lc ∧
    t.schedule = s.schedule ∧ t.turnCount = s.turnCount ∧ t.host = s.host := by
  rcases engineTurn_cases s with ⟨-, h'⟩ | ⟨i, -, h'⟩ | ⟨-, h'⟩ <;> rw [h'] at h
  · cases h
    simp
  · cases i with
    | isprime | gcd =>
      cases h
      simp
    | modinv =>
      cases h
      unfold completeInverse
      split <;> simp
    | keygen =>
      cases h
      have := kgStep_frame Config.kgRetryCap (nextDraw s).toNat (consumeDraw s)
      simp_all
    | modexp =>
      cases h
      unfold completeModexp
      split <;> simp
  · cases h
    simp

/-- A step is the next turn's. -/
theorem step_eq (s : State) : step s = runTurn (nextTurn s) (takeTurn s) := rfl

/-- A scheduled turn is the one taken. -/
@[simp] theorem nextTurn_cons {s : State} {t : Turn} {ts : List Turn} (h : s.schedule = t :: ts) : nextTurn s = t := by
  simp [nextTurn, h]

/-- The draw at the head of the port's list is the one delivered. -/
@[simp] theorem nextDraw_cons {s : State} {v : Word} {vs : List Word} (h : s.draws = v :: vs) : nextDraw s = v := by
  simp [nextDraw, h]

/-- A host program's line ends in a next state, or is ill-formed. -/
theorem hostBranch_cases (c : Word → Bool) (x mask l : Nat) (s : State) :
    (∃ n, hostBranch c x mask l s = .next (gotoLine n s)) ∨ hostBranch c x mask l s = refuseLine s := by
  unfold hostBranch
  split
  · exact .inr rfl
  · rename_i pc _
    split
    · exact .inl ⟨if c (s.host.readVar x &&& toWord mask) then pc else s.host.pc + 1, by split <;> rfl⟩
    · exact .inr rfl

/-- The Host's turn with its program is: nothing, an access and the next line, a line of its own, or a refusal. -/
theorem hostLineTurn_cases (s : State) :
    hostLineTurn s = .next s ∨
    (∃ r v w, s.host.program[s.host.pc]? = some (.wr r v) ∧ Value.eval s.host v = some w ∧
      hostLineTurn s = .next (nextLine (hostAccess (regOffset r) (.write 8 w) s))) ∨
    (∃ x r, s.host.program[s.host.pc]? = some (.rd x r) ∧
      hostLineTurn s = .next (nextLine (setVar x (readReg r s) (hostAccess (regOffset r) (.read 8) s)))) ∨
    (∃ n, hostLineTurn s = .next (gotoLine n s)) ∨ hostLineTurn s = refuseLine s := by
  unfold hostLineTurn
  split
  · exact .inl rfl
  · rename_i ln hln
    cases ln with
    | wr r v =>
      cases hv : Value.eval s.host v with
      | none => simp [execHostLine, hv]
      | some w => exact .inr (.inl ⟨r, v, w, hln, hv, by simp [execHostLine, hv, hostAccess]⟩)
    | rd x r => exact .inr (.inr (.inl ⟨x, r, hln, rfl⟩))
    | label l => exact .inr (.inr (.inr (.inl ⟨_, rfl⟩)))
    | bnz x mask l => exact .inr (.inr (.inr (hostBranch_cases (fun v => decide (v ≠ 0)) x mask l s)))
    | bz x mask l => exact .inr (.inr (.inr (hostBranch_cases (fun v => decide (v = 0)) x mask l s)))
    | halt => exact .inl rfl

/-! ## Host variables -/

/-- The variable just set reads as what it was set to. -/
theorem lookup_setVarList_self (x : Nat) (v : Word) (l : List (Nat × Word)) :
    (setVarList x v l).lookup x = some v := by
  induction l with
  | nil => simp [setVarList]
  | cons p rest ih =>
    obtain ⟨y, u⟩ := p
    unfold setVarList
    split
    · simp
    · split
      · simp
      · rename_i h1 h2
        simp [List.lookup_cons, beq_eq_false_iff_ne.mpr h2, ih]

/-- Every other variable reads as before. -/
theorem lookup_setVarList_other {x y : Nat} (h : y ≠ x) (v : Word) (l : List (Nat × Word)) :
    (setVarList x v l).lookup y = l.lookup y := by
  induction l with
  | nil => simp [setVarList, List.lookup_cons, beq_eq_false_iff_ne.mpr h]
  | cons p rest ih =>
    obtain ⟨z, u⟩ := p
    unfold setVarList
    split
    · simp [List.lookup_cons, beq_eq_false_iff_ne.mpr h]
    · split
      · rename_i h1 h2
        subst h2
        simp [List.lookup_cons, beq_eq_false_iff_ne.mpr h]
      · simp only [List.lookup_cons, ih]

/-- Setting a variable keeps the list strictly rising. -/
theorem setVarList_sorted (x : Nat) (v : Word) (l : List (Nat × Word)) (h : l.Pairwise fun a b => a.1 < b.1) :
    (setVarList x v l).Pairwise fun a b => a.1 < b.1 := by
  induction l with
  | nil => simp [setVarList]
  | cons p rest ih =>
    obtain ⟨y, u⟩ := p
    rw [List.pairwise_cons] at h
    unfold setVarList
    split
    · rename_i hlt
      refine List.pairwise_cons.mpr ⟨?_, List.pairwise_cons.mpr h⟩
      intro b hb
      rcases List.mem_cons.mp hb with rfl | hb
      · exact hlt
      · exact lt_trans hlt (h.1 b hb)
    · split
      · rename_i h1 h2
        subst h2
        exact List.pairwise_cons.mpr h
      · rename_i h1 h2
        refine List.pairwise_cons.mpr ⟨?_, ih h.2⟩
        intro b hb
        have hmem : ∀ l : List (Nat × Word), b ∈ setVarList x v l → b = (x, v) ∨ b ∈ l := by
          intro l
          induction l with
          | nil => simp [setVarList]
          | cons q r ih2 =>
            obtain ⟨z, w⟩ := q
            unfold setVarList
            split
            · simp
            · split
              · simp only [List.mem_cons]
                tauto
              · simp only [List.mem_cons]
                tauto
        rcases hmem rest hb with rfl | hb
        · show y < x
          omega
        · exact h.1 b hb

end Sys2Proof.Machine
end

