-- ==== Sys2Proof/Laws/PerInstr.lean ====
section
/-! SUPPORT. What is said of every command as syntax, one lemma per constructor. -/

namespace Sys2Proof.Laws.RoundTrip

/-- A command is well-formed, its word decodes to it, and so does the opcode table's number for it. -/
def Statement (i : Instr) : Prop :=
  i.wf = true ∧ decode (encode i) = .instr i ∧ decodeTableWord 64 (encode i).toNat = some i

theorem isprime : Statement .isprime := by unfold Statement; decide

theorem gcd : Statement .gcd := by unfold Statement; decide

theorem modinv : Statement .modinv := by unfold Statement; decide

theorem keygen : Statement .keygen := by unfold Statement; decide

theorem modexp : Statement .modexp := by unfold Statement; decide

end Sys2Proof.Laws.RoundTrip
end

