-- ==== Sys2Proof/Laws/Step.lean ====
section
/-! SUPPORT. What a step can do, said once: the forms of an Engine step, of a Host access and of a step. -/

namespace Sys2Proof.Machine

/-! ## The Engine's turn -/

/-- A rejected draw writes KG_REJ, or completes with RETRY_EXHAUSTED. -/
theorem reject_completed (cap : Config.RetryCap) (s : State) :
    (∃ r, reject cap s = { s with kg := { s.kg with rej := r } }) ∨ reject cap s = s.completed 4 := by
  rcases reject_cases cap s with ⟨-, h⟩ | ⟨k, -, -, h⟩
  · exact .inl ⟨_, h⟩
  · exact .inr h

/-- A KEYGEN step completes with results, completes with an error, or writes the KG_* registers. -/
theorem kgStep_forms (cap : Config.RetryCap) (v : Nat) (s : State) :
    (∃ a b c, kgStep cap v s = ({ s with res0 := a, res1 := b, res2 := c } : State).completed 0) ∨
    (∃ code, code ≠ 0 ∧ kgStep cap v s = s.completed code) ∨
    (∃ kg, kgStep cap v s = { s with kg := kg }) := by
  have hrej : (∃ code, code ≠ 0 ∧ reject cap s = s.completed code) ∨ (∃ kg, reject cap s = { s with kg := kg }) :=
    (reject_completed cap s).elim (fun ⟨_, h⟩ => .inr ⟨_, h⟩) fun h => .inl ⟨4, by decide, h⟩
  unfold kgStep
  split
  · unfold stepP
    split
    · exact .inr (.inr ⟨_, rfl⟩)
    · exact .inr hrej
  · unfold stepQ
    split
    · exact .inr (.inr ⟨_, rfl⟩)
    · exact .inr hrej
  · unfold stepE
    split
    · unfold completeKeypair
      split
      · exact .inr (.inl ⟨1, by decide, rfl⟩)
      · exact .inl ⟨_, _, _, rfl⟩
    · exact .inr hrej

/-- The Engine's turn: nothing; a success of a single-step command; a failure of one or of an illegal word; or a KEYGEN
step, with one draw consumed. -/
theorem engineTurn_forms {s t : State} (h : engineTurn s = .next t) :
    (s.engOp = .none ∧ t = s) ∨
    (s.engOp ≠ .none ∧ s.engOp ≠ .op .keygen ∧ ∃ a, t = ({ s with res0 := a } : State).completed 0) ∨
    (s.engOp ≠ .none ∧ s.engOp ≠ .op .keygen ∧ ∃ code, code ≠ 0 ∧ t = s.completed code) ∨
    (s.engOp = .op .keygen ∧
      ((∃ a b c, t = ({ s.drawn with res0 := a, res1 := b, res2 := c } : State).completed 0) ∨
        (∃ code, code ≠ 0 ∧ t = s.drawn.completed code) ∨ (∃ kg, t = { s.drawn with kg := kg }))) := by
  rcases engineTurn_cases s with ⟨he, h'⟩ | ⟨i, he, h'⟩ | ⟨he, h'⟩ <;> rw [h'] at h
  · cases h
    exact .inl ⟨he, rfl⟩
  · cases i with
    | isprime | gcd =>
      cases h
      exact .inr (.inl ⟨by simp [he], by simp [he], _, rfl⟩)
    | modinv =>
      cases h
      unfold completeInverse
      split
      · exact .inr (.inr (.inl ⟨by simp [he], by simp [he], 1, by decide, rfl⟩))
      · exact .inr (.inl ⟨by simp [he], by simp [he], _, rfl⟩)
    | modexp =>
      cases h
      unfold completeModexp
      split
      · exact .inr (.inr (.inl ⟨by simp [he], by simp [he], 3, by decide, rfl⟩))
      · exact .inr (.inl ⟨by simp [he], by simp [he], _, rfl⟩)
    | keygen =>
      cases h
      exact .inr (.inr (.inr ⟨he, kgStep_forms Config.kgRetryCap (nextDraw s).toNat (consumeDraw s)⟩))
  · cases h
    exact .inr (.inr (.inl ⟨by simp [he], by simp [he], 2, by decide, rfl⟩))

/-! ## A step -/

/-- The turn that writes `v` to register `r`: a Host write at its offset, a platform write at its address, or a WR line. -/
def WritesReg (s : State) (r : RegName) (v : Word) : Prop :=
  nextTurn s = .host (regOffset r) (.write 8 v) ∨
  nextTurn s = .bus (Config.baseAddr + regOffset r) (.write 8 v) ∨
  (nextTurn s = .hostLine ∧ ∃ x, s.host.program[s.host.pc]? = some (.wr r x) ∧ Value.eval s.host x = some v)

/-- The Host's side after a step: its log has only grown, and its program is the same. -/
def HostGrows (s t : State) : Prop := (∃ new, t.host.log = new ++ s.host.log) ∧ t.host.program = s.host.program

theorem HostGrows.refl (s : State) : HostGrows s s := ⟨⟨[], rfl⟩, rfl⟩

/-- A Host access writes its register, or changes only the Host's log. -/
theorem hostAccess_forms (off : Nat) (a : Access) (s : State) :
    (∃ r v, a = .write 8 v ∧ off = regOffset r ∧ hostAccess off a s = respond (.done off) (writeReg r v s)) ∨
    (∃ p, hostAccess off a s = respond p s) := by
  rcases hostAccess_cases off a s with ⟨r, -, -, h⟩ | h | h
  · exact .inr ⟨_, h⟩
  · exact .inl h
  · exact .inr ⟨_, h⟩

/-- The Host's side after a register write. -/
theorem respond_writeReg_grows (p : Response) (r : RegName) (v : Word) (s : State) :
    HostGrows s (respond p (writeReg r v s)) := by
  have h := (writeReg_frame r v s).2.2.2.2.2.2.2.2
  exact ⟨⟨[p], by simp [h]⟩, by simp [h]⟩

/-- A step is: a reset; the Engine's turn; a register write by the Host; or a turn that changes only the Host's side. -/
theorem step_cases {s t : State} (h : step s = .next t) :
    (nextTurn s = .reset ∧ t = resetBlock (takeTurn s)) ∨
    (nextTurn s = .engine ∧ engineTurn (takeTurn s) = .next t) ∨
    (∃ r v, WritesReg s r v ∧ HostGrows s t ∧ t = { writeReg r v (takeTurn s) with host := t.host }) ∨
    (nextTurn s ≠ .reset ∧ nextTurn s ≠ .engine ∧ HostGrows s t ∧ t = { takeTurn s with host := t.host }) := by
  rw [step_eq] at h
  cases hn : nextTurn s with
  | host off a =>
    rw [hn] at h
    cases h
    rcases hostAccess_forms off a (takeTurn s) with ⟨r, v, rfl, rfl, h⟩ | ⟨p, h⟩
    · exact .inr (.inr (.inl ⟨r, v, .inl hn, h ▸ respond_writeReg_grows _ r v (takeTurn s), by rw [h]; rfl⟩))
    · exact .inr (.inr (.inr ⟨by simp, by simp, h ▸ ⟨⟨[p], rfl⟩, rfl⟩, by rw [h]; rfl⟩))
  | bus addr a =>
    rw [hn] at h
    cases h
    rcases busAccess_cases Config.baseAddr addr a (takeTurn s) with ⟨hb, -, h⟩ | ⟨-, h⟩
    · rcases hostAccess_forms (addr - Config.baseAddr) a (takeTurn s) with ⟨r, v, rfl, ho, h'⟩ | ⟨p, h'⟩
      · rw [h'] at h
        refine .inr (.inr (.inl ⟨r, v, .inr (.inl ?_), h ▸ respond_writeReg_grows _ r v (takeTurn s), by rw [h]; rfl⟩))
        rw [hn, ← ho, Nat.add_sub_cancel' hb]
      · rw [h'] at h
        exact .inr (.inr (.inr ⟨by simp, by simp, h ▸ ⟨⟨[p], rfl⟩, rfl⟩, by rw [h]; rfl⟩))
    · rw [h]
      exact .inr (.inr (.inr ⟨by simp, by simp, HostGrows.refl s, rfl⟩))
  | hostLine =>
    rw [hn] at h
    have h : hostLineTurn (takeTurn s) = .next t := h
    rcases hostLineTurn_cases (takeTurn s) with h' | ⟨r, x, v, hln, hv, h'⟩ | ⟨x, r, -, h'⟩ | ⟨n, h'⟩ | h' <;>
      rw [h'] at h <;> cases h
    · exact .inr (.inr (.inr ⟨by simp, by simp, HostGrows.refl s, rfl⟩))
    · have e : hostAccess (regOffset r) (.write 8 v) (takeTurn s) =
          respond (.done (regOffset r)) (writeReg r v (takeTurn s)) := by simp [hostAccess, hostWrite]
      rw [e]
      exact .inr (.inr (.inl ⟨r, v, .inr (.inr ⟨hn, x, hln, hv⟩), respond_writeReg_grows _ r v (takeTurn s), rfl⟩))
    · have e : hostAccess (regOffset r) (.read 8) (takeTurn s) =
          respond (.data (regOffset r) (readReg r (takeTurn s))) (takeTurn s) := by simp [hostAccess, hostRead]
      rw [e]
      exact .inr (.inr (.inr ⟨by simp, by simp, ⟨⟨[.data (regOffset r) (readReg r (takeTurn s))], rfl⟩, rfl⟩, rfl⟩))
    · exact .inr (.inr (.inr ⟨by simp, by simp, HostGrows.refl s, rfl⟩))
  | engine =>
    rw [hn] at h
    exact .inr (.inl ⟨rfl, h⟩)
  | reset =>
    rw [hn] at h
    cases h
    exact .inl ⟨rfl, rfl⟩

end Sys2Proof.Machine
end

