-- ==== Sys2Proof/Tests/Slice0.lean ====
section
/-! SUPPORT. The model's own tests: well-formedness, decoding, one step per case of the spec's vectors
(95_test_vectors.md), and a witness for the hypotheses of every statement. -/

namespace Sys2Proof.Tests

open Sys2Proof.Machine

/-! ## Well-formedness: what each check refuses (30_encoding.md R76) -/

theorem test_wf_every_command : [Instr.isprime, .gcd, .modinv, .keygen, .modexp].all Instr.wf = true := by decide

theorem test_wf_literal_too_large : hostProgramWf [.wr .opa (.lit (2 ^ 64))] = false := by decide

theorem test_wf_mask_too_large : hostProgramWf [.label 1, .bnz 0 (2 ^ 64) 1] = false := by decide

theorem test_wf_label_undefined : hostProgramWf [.label 1, .bz 0 1 2] = false := by decide

theorem test_wf_label_twice : hostProgramWf [.label 1, .label 1] = false := by decide

theorem test_wf_run_modexp : hostProgramWf (runModexp (.lit 65) (.lit 17) (.lit 3233) 1 0) = true := by decide

/-! ## Decoding: words written out from 30_encoding.md R70, R72: RSVD [63:4] = 0, then OPCODE -/

theorem test_decode_isprime : decode (0#60 ++ 0b0001#4) = .instr .isprime := by decide

theorem test_decode_gcd : decode (0#60 ++ 0b0010#4) = .instr .gcd := by decide

theorem test_decode_modinv : decode (0#60 ++ 0b0011#4) = .instr .modinv := by decide

theorem test_decode_keygen : decode (0#60 ++ 0b0100#4) = .instr .keygen := by decide

theorem test_decode_modexp : decode (0#60 ++ 0b0101#4) = .instr .modexp := by decide

/-- 95_test_vectors.md 2.6. -/
theorem test_decode_reserved_bit : decode 0x8000000000000001 = .reject .reservedBits := by decide

theorem test_decode_zero : decode 0 = .reject .illegalOpcode := by decide

/-- R58: MODEXP's word, the byte at the lowest address first. -/
theorem test_decode_bytes : decodeBytes [5, 0, 0, 0, 0, 0, 0, 0, 0xAA] = (.instr .modexp, [0xAA]) := by decide

theorem test_decode_truncated : decodeBytes [5, 0, 0] = (.reject .truncated, [5, 0, 0]) := by decide

/-- "CMD MODINV encodes as W 0x00 0x0000000000000003" (R78). -/
theorem test_encode_modinv : encode .modinv = 0x0000000000000003 := by decide

/-- P2 of 95_test_vectors.md: `WR OPB, 3120` is written `W 0x18 0x0000000000000C30`. -/
theorem test_render_write :
    renderTransaction 0x18 (.write 8 3120) = some "W 0x18 0x0000000000000C30".toList := by decide

theorem test_table_word_too_long : decodeTableWord 72 1 = none := by decide

/-! ## One step per vector -/

/-- A block that has just accepted command `i` with the operands given. -/
def running (i : Instr) (a b c : Word) : State :=
  accept (encode i) { State.reset with opa := a, opb := b, opc := c }

/-- The state an outcome ends in. -/
def after (o : Host.Outcome State Fault Refusal) : State :=
  match o with
  | .next t => t
  | .fault _ => State.reset
  | .refused _ => State.reset

/-- RES0 and STATUS after one Engine step. -/
def answer (i : Instr) (a b c : Word) : Word × Word :=
  ((after (exec i (running i a b c))).res0, (after (exec i (running i a b c))).status.word)

/-- 95_test_vectors.md 2.1. -/
theorem test_isprime_7919 : answer .isprime 7919 0 0 = (1, 0x02) := by decide +kernel

theorem test_isprime_square : answer .isprime 121 0 0 = (0, 0x02) := by decide

/-- 95_test_vectors.md 2.2. -/
theorem test_gcd_wide : answer .gcd 0x8000000000000000 0x0000030000000000 0 = (0x0000010000000000, 0x02) := by decide

theorem test_gcd_zero : answer .gcd 0 5 0 = (5, 0x02) := by decide

/-- 95_test_vectors.md 2.3: a negative coefficient, and the corner of C3. -/
theorem test_modinv_wide : answer .modinv 2 0xFFFFFFFFFFFFFFFF 0 = (0x8000000000000000, 0x02) := by decide

theorem test_modinv_not_coprime : answer .modinv 6 3120 0 = (0, 0x12) := by decide

/-- 95_test_vectors.md 2.5. -/
theorem test_modexp_wide :
    answer .modexp 2 0xFFFFFFFFFFFFFFFF 0xFFFFFFFFFFFFFFC5 = (0x0800000000000000, 0x02) := by decide +kernel

theorem test_modexp_domain : answer .modexp 5 3 0 = (0, 0x32) := by decide

/-- KEYGEN steps with the draws given, for any cap, as long as the command runs. -/
def keygenRun (cap : Config.RetryCap) (vs : List Nat) : State :=
  vs.foldl (fun s v => if s.status.busy then kgStep cap v s else s) (running .keygen 0 0 0)

/-- 95_test_vectors.md 2.4: the trace of P3, with five rejected draws. -/
theorem test_keygen_p3 :
    (fun t : State => (t.res0, t.res1, t.res2, t.kg)) (keygenRun none [1, 60, 61, 61, 1001, 53, 3120, 17]) =
      (17, 2753, 3233, KgRegs.reset) := by decide +kernel

/-- 95_test_vectors.md 2.4: cap 2. -/
theorem test_keygen_cap : (keygenRun (some ⟨2, by decide⟩) [4, 6]).status.word = 0x42 := by decide

/-- 95_test_vectors.md 2.6: a word with bit 4 set is illegal although its OPCODE is 1. -/
theorem test_illegal_word : (after (engineTurn (accept 0x11 State.reset))).status.word = 0x22 := by decide

/-- 95_test_vectors.md 2.6: a CMD write while BUSY. -/
theorem test_overrun : (hostAccess 0x00 (.write 8 0x2) (running .isprime 97 0 0)).status.word = 0x05 ∧
    (hostAccess 0x00 (.write 8 0x2) (running .isprime 97 0 0)).cmd = 0x1 := by decide

/-- 95_test_vectors.md 2.6: a 4-byte read at 0x08, and a read at 0x40. -/
theorem test_bus_errors : (hostAccess 0x08 (.read 4) State.reset).host.log = [.fault (.busError 0x08)] ∧
    (hostAccess 0x40 (.read 8) State.reset).host.log = [.fault (.busError 0x40)] := by decide

/-- The host's harness: the very next step after placing MODEXP runs it (OPC = 0 gives DOMAIN, 70 R253). -/
theorem test_fetch_word : (after (step (State.reset.withFetchWord 64 5))).status.word = 0x32 := by decide

/-- R76: a WR line. -/
theorem test_wr_line :
    (after (hostLineTurn { State.reset with
      host := { HostCtx.reset with program := [.wr .opb (.lit 3120)] } })).opb = 3120 := by decide

/-! ## Witnesses: states and operands that meet each statement's hypotheses -/

/-- A state whose next turns are `ts`. -/
def withTurns (ts : List Turn) (s : State) : State := { s with schedule := ts }

/-- A Host with a program, at a line. -/
def withProgram (p : List HostLine) (pc : Nat) (s : State) : State :=
  { s with host := { s.host with program := p, pc := pc } }

/-- KEYGEN in phase E with p = 61 and q = 53 (W1), and the draw 17 next. -/
def phaseE : State :=
  { running .keygen 0 0 0 with
    kg := { phase := .E, p := 61, q := 53, n := 3233, phi := 3120, rej := 0 }
    draws := [17]
    schedule := [.engine] }

/-- KEYGEN in phase Q with p = 61, and a draw next. -/
def phaseQ (v : Word) : State :=
  { running .keygen 0 0 0 with
    kg := { phase := .Q, p := 61, q := 0, n := 0, phi := 0, rej := 0 }
    draws := [v] }

/-- KEYGEN in phase P, and a draw next. -/
def phaseP (v : Word) : State := { running .keygen 0 0 0 with draws := [v] }

theorem keyPrime_61 : KeyPrime 61 := ⟨by norm_num, by decide, by decide⟩

theorem keyPrime_53 : KeyPrime 53 := ⟨by norm_num, by decide, by decide⟩

theorem running_inv (i : Instr) (a b c : Word) (ts : List Turn) : (withTurns ts (running i a b c)).Inv := by
  have he : EngOp.ofWord (encode i) = .op i := by cases i <;> rfl
  refine ⟨?_, ?_, ?_, ?_, ?_, ?_, ?_, ?_, fun k _ => k.2⟩ <;>
    simp [withTurns, running, State.reset, he, KgRegs.Progress, KgRegs.reset]

theorem phaseE_inv : phaseE.Inv := by
  constructor
  all_goals first
    | decide
    | (intro k _; exact k.2)
    | skip
  intro _
  exact ⟨keyPrime_61, keyPrime_53, by decide, by decide, by decide⟩

theorem test_hyp_StepTakesTheNextTurn :
    (withTurns [.reset, .engine] State.reset).schedule = .reset :: [.engine] ∧ State.reset.schedule = [] := by decide

theorem test_hyp_StepRunsTheDecodedCommand :
    (nextTurn (withTurns [.engine] (running .gcd 12 18 0)) = .engine ∧
      (withTurns [.engine] (running .gcd 12 18 0)).engOp = .op .gcd) ∧
    decode 0x2 = .instr .gcd := by decide

theorem test_hyp_CmdWriteIsAccepted :
    State.reset.status.busy = false ∧ (withTurns [] (running .gcd 12 18 0)).Inv ∧
    ∃ s : State, s.Inv ∧ s.status.busy = false :=
  ⟨by decide, running_inv _ _ _ _ _, after (step (withTurns [.engine] (running .gcd 12 18 0))), by
    constructor
    all_goals first
      | decide
      | (intro k _; exact k.2)
      | (intro h; exact absurd h (by decide)), by decide⟩

/-- An idle block whose last command was overrun, and a CMD write next: the acceptance clears OVR. -/
def overrunThenAccepted : State :=
  { State.reset with
    status := { busy := false, done := true, ovr := true, errcode := 0 }
    schedule := [.host 0x00 (.write 8 0x2)] }

theorem test_hyp_CmdWriteWhileBusyIsDropped :
    (running .isprime 97 0 0).status.busy = true ∧
    ∃ t, step overrunThenAccepted = .next t ∧ overrunThenAccepted.status.ovr = true ∧ t.status.ovr = false :=
  ⟨by decide, _, rfl, by decide, by decide⟩

theorem test_hyp_IllegalWordCompletesWithIllegalCmd :
    State.reset.status.busy = false ∧ (accept 0x6 State.reset).engOp = .illegal ∧
    (accept 0x10 State.reset).engOp = .illegal ∧ (accept 0x5 State.reset).engOp ≠ .illegal := by decide

theorem test_hyp_EngineStepsExactlyWhenBusy :
    (withTurns [] (running .keygen 0 0 0)).Inv ∧ (withTurns [] (running .keygen 0 0 0)).status.busy = true :=
  ⟨running_inv _ _ _ _ _, by decide⟩

theorem test_hyp_CommandEndsOnlyByCompletionOrReset :
    ∃ t, step (withTurns [.engine] (running .gcd 12 18 0)) = .next t ∧
      (withTurns [.engine] (running .gcd 12 18 0)).status.busy = true ∧ t.status.busy = false :=
  ⟨_, rfl, by decide, by decide⟩

theorem test_hyp_FailedCommandWritesNoResult :
    (∃ t, step (withTurns [.engine] (running .modinv 6 3120 0)) = .next t ∧
      nextTurn (withTurns [.engine] (running .modinv 6 3120 0)) ≠ .reset ∧ t.status.busy = false ∧
      t.status.errcode ≠ 0) ∧
    (∃ t, step (withTurns [.host 0x00 (.write 8 0x5)] State.reset) = .next t ∧ t.status.busy = true) :=
  ⟨⟨_, rfl, by decide, by decide, by decide⟩, _, rfl, by decide⟩

theorem test_hyp_ResultsChangeOnlyOnSuccess :
    (withTurns [.engine] (running .isprime 97 0 0)).Inv ∧
    ∃ t, step (withTurns [.engine] (running .isprime 97 0 0)) = .next t ∧
      t.res0 ≠ (withTurns [.engine] (running .isprime 97 0 0)).res0 :=
  ⟨running_inv _ _ _ _ _, _, rfl, by decide⟩

/-- A WR line that writes OPC. -/
def writesOpc : State := withTurns [.hostLine] (withProgram [.wr .opc (.lit 7)] 0 State.reset)

theorem test_hyp_OperandsChangeOnlyByHostWrites :
    (∃ t, step (withTurns [.host 0x10 (.write 8 5)] State.reset) = .next t ∧ t.opa ≠ State.reset.opa) ∧
    (∃ t, nextTurn writesOpc = .hostLine ∧ step writesOpc = .next t ∧ t.opc ≠ writesOpc.opc) ∧
    (∃ t, runTurn .engine (running .gcd 12 18 0) = .next t) ∧
    (busAccess Config.baseAddr (Config.baseAddr + 0x18) (.write 8 5) State.reset).opb ≠ State.reset.opb :=
  ⟨⟨_, rfl, by decide⟩, ⟨_, by decide, rfl, by decide⟩, ⟨_, rfl⟩, by
    simp [busAccess, windowOffset, hostAccess, hostWrite, accessReg, nameAt, writeReg, State.reset]⟩

theorem test_hyp_PreloadingDoesNotDisturbTheCommand :
    (∃ t, runTurn .engine (running .gcd 12 18 0) = .next t) ∧ State.reset.status.busy = false := ⟨⟨_, rfl⟩, by decide⟩

theorem test_hyp_CommandIgnoresUnlistedOperands :
    (∃ t, exec .isprime (running .isprime 97 1 2) = .next t) ∧ (∃ t, exec .gcd (running .gcd 12 18 1) = .next t) ∧
    (∃ t, exec .modinv (running .modinv 17 3120 1) = .next t) ∧ (∃ t, exec .keygen phaseE = .next t) :=
  ⟨⟨_, rfl⟩, ⟨_, rfl⟩, ⟨_, rfl⟩, ⟨_, rfl⟩⟩

theorem test_hyp_SingleStepCommandRunsFromAcceptance :
    ∃ s : State, s.status.busy = false ∧ decode 0x5 = .instr .modexp ∧ Instr.modexp ≠ .keygen ∧ s.opc ≠ 0 ∧
      s.schedule = .host 0x00 (.write 8 0x5) :: .host 0x10 (.write 8 91) :: .engine :: [] :=
  ⟨{ State.reset with
    opa := 65
    opb := 17
    opc := 3233
    schedule := [.host 0x00 (.write 8 0x5), .host 0x10 (.write 8 91), .engine] },
    by decide, by decide, by decide, by decide, rfl⟩

/-- The edges of the legal accesses: 8 bytes at 0x38 is the last one; 0x40, 0x04 and 4 bytes are BusErrors. -/
theorem test_hyp_HostReadReturnsTheRegister :
    (accessReg 0x38 8).isSome ∧ (accessReg 0x00 8).isSome ∧ accessReg 0x40 8 = none ∧ accessReg 0x04 8 = none ∧
    accessReg 0x08 4 = none ∧ (hostAccess 0x38 (.read 8) State.reset).host.log = [.data 0x38 0] := by decide

theorem test_hyp_HostWriteReachesOnlyItsRegister :
    (hostAccess 0x20 (.write 8 9) State.reset).opc = 9 ∧ hostAccess 0x38 (.write 8 9) State.reset =
      State.reset.responded (.done 0x38) ∧
    (hostAccess 0x00 (.write 8 9) State.reset).status.busy = true ∧
    (hostAccess 0x00 (.write 8 9) (running .gcd 0 0 0)).status.ovr = true := by decide

theorem test_hyp_BusErrorIsRecordedAndHarmless :
    ∃ t, step (withTurns [.reset] (hostAccess 0x39 (.read 8) State.reset)) = .next t ∧
      Response.fault (.busError 0x39) ∈ (withTurns [.reset] (hostAccess 0x39 (.read 8) State.reset)).host.log :=
  ⟨_, rfl, by decide⟩

theorem test_hyp_PlatformAddressIsBasePlusOffset :
    windowOffset 0x1000 0x1000 = some 0 ∧ windowOffset 0x1000 0x103F = some 0x3F ∧
    windowOffset 0x1000 0x0FFF = none ∧ windowOffset 0x1000 0x1040 = none := by decide

/-- R58: OPA's last byte is bits [63:56]. -/
theorem test_hyp_WindowBytesAreLittleEndian :
    windowByte 0x17 { State.reset with opa := 0x1122334455667788 } = some 0x11 ∧
    windowByte 0x10 { State.reset with opa := 0x1122334455667788 } = some 0x88 ∧
    (windowByte 0x3F State.reset).isSome = true ∧ windowByte 0x40 State.reset = none := by decide

theorem test_hyp_CmdHoldsTheLastAcceptedWord :
    ∃ t, step (withTurns [.host 0x00 (.write 8 0x7)] State.reset) = .next t ∧ t.cmd ≠ State.reset.cmd ∧
      State.reset.status.busy = false ∧ t.status.busy = true ∧ t.cmd = 0x7 :=
  ⟨_, rfl, by decide, by decide, by decide, by decide⟩

theorem test_hyp_ResetClearsTheBlock : nextTurn (withTurns [.reset] phaseE) = .reset := by decide

theorem test_hyp_IsqrtIsExact : 4 * 4 ≤ 24 ∧ isqrt 24 = 4 ∧ isqrt 25 = 5 ∧ isqrt 0 = 0 := by decide

theorem test_hyp_GcdFollowsEuclid : 0 < 1 ∧ euclidGcd 7 1 = euclidGcd 1 0 := by decide

theorem test_hyp_ModinvGivesTheInverse :
    (running .modinv 17 3120 0).lb ≠ 0 ∧
    Nat.gcd (running .modinv 17 3120 0).la.toNat (running .modinv 17 3120 0).lb.toNat = 1 := by decide

theorem test_hyp_ModinvReportsNonInvertible :
    (running .modinv 1 0 0).lb = 0 ∧
    1 < Nat.gcd (running .modinv 6 3120 0).la.toNat (running .modinv 6 3120 0).lb.toNat := by decide

theorem test_hyp_ModexpGivesThePower :
    (running .modexp 5 3 0).lc = 0 ∧ (running .modexp 5 3 1).lc ≠ 0 := by decide

/-- The edges of [2, 1000]: 2 is accepted; 1 and 1001 are out of range; 1000 is no prime. -/
theorem test_hyp_KeygenPhasePAcceptsPrimes :
    (phaseP 2).kg.phase = .P ∧ (nextDraw (phaseP 2)).toNat = 2 ∧ Nat.Prime 2 ∧
    (after (exec .keygen (phaseP 2))).kg.p = 2 ∧ inRange (phaseP 2).kg 1 = false ∧
    inRange (phaseP 2).kg 1001 = false ∧ inRange (phaseP 2).kg 1000 = true ∧ isPrime 1000 = false :=
  ⟨by decide, by decide, Nat.prime_two, by decide, by decide, by decide, by decide, by decide⟩

theorem test_hyp_KeygenPhaseQAcceptsAnotherPrime :
    (phaseQ 53).kg.phase = .Q ∧ KeyPrime (phaseQ 53).kg.p ∧ (nextDraw (phaseQ 53)).toNat = 53 ∧ Nat.Prime 53 ∧
    53 ≠ (phaseQ 53).kg.p ∧ (nextDraw (phaseQ 61)).toNat = (phaseQ 61).kg.p :=
  ⟨by decide, keyPrime_61, by decide, by norm_num, by decide, by decide⟩

theorem test_hyp_KeygenPhaseECompletes :
    phaseE.kg.phase = .E ∧ (nextDraw phaseE).toNat = 17 ∧ 17 ≤ phaseE.kg.phi ∧ Nat.gcd phaseE.kg.phi 17 = 1 ∧
    Nat.gcd phaseE.kg.phi 3120 ≠ 1 := by decide

theorem test_hyp_KeygenHangsWithoutAcceptableDraws :
    ∀ v ∈ [1, 4, 1001], ¬(running .keygen 0 0 0).kg.Acceptable v := by
  show ∀ v ∈ [1, 4, 1001], ¬(2 ≤ v ∧ v ≤ 1000 ∧ isPrime v = true)
  decide

theorem test_hyp_KeygenEndsWhenTheCapIsUsedUp :
    (∀ v ∈ [4, 6], ¬(running .keygen 0 0 0).kg.Acceptable v) ∧ (running .keygen 0 0 0).kg.rej = 0 ∧
    [4, 6].length = (⟨2, by decide⟩ : { k : Nat // 0 < k }).val ∧
    [4, 6].length < (⟨3, by decide⟩ : { k : Nat // 0 < k }).val := by
  refine ⟨?_, by decide, by decide, by decide⟩
  show ∀ v ∈ [4, 6], ¬(2 ≤ v ∧ v ≤ 1000 ∧ isPrime v = true)
  decide

theorem test_hyp_OnlyKeygenConsumesDraws :
    (∃ t, step phaseE = .next t ∧ nextTurn phaseE = .engine ∧ phaseE.engOp = .op .keygen) ∧
    (∃ t, step (withTurns [.engine] (running .gcd 1 2 3)) = .next t ∧ (running .gcd 1 2 3).engOp ≠ .op .keygen) :=
  ⟨⟨_, rfl, by decide, by decide⟩, _, rfl, by decide⟩

theorem test_hyp_KeygenPresentsItsSamplingRange :
    (running .gcd 1 2 3).engOp ≠ .op .keygen ∧ drawRequest (phaseP 2) = some (2, 1000) ∧
    drawRequest (phaseQ 2) = some (2, 1000) ∧ drawRequest phaseE = some (1, 3120) ∧
    (nextDraw (phaseP 1001)).toNat = 1001 := by decide

theorem test_hyp_KeygenNeverNonInvertible :
    phaseE.Inv ∧ phaseE.engOp = .op .keygen ∧ ∃ t, exec .keygen phaseE = .next t := ⟨phaseE_inv, by decide, _, rfl⟩

/-- The hypotheses of KeypairIsValid and of KeypairRoundTripsThroughModexp. -/
theorem test_hyp_KeypairIsValid :
    phaseE.Inv ∧ phaseE.engOp = .op .keygen ∧
    ∃ t, runTurn .engine phaseE = .next t ∧ t.status.done = true ∧ t.status.errcode = 0 ∧ 65 < t.res2.toNat :=
  ⟨phaseE_inv, by decide, _, rfl, by decide, by decide, by decide⟩

theorem test_hyp_StepKeepsTheInvariants : phaseE.Inv ∧ ∃ t, step phaseE = .next t := ⟨phaseE_inv, _, rfl⟩

theorem test_hyp_WellFormedProgramNeverStopsTheMachine :
    nextTurn phaseE ≠ .hostLine ∧
    hostProgramWf (withProgram (runKeygen 1 0) 0 State.reset).host.program = true := by decide

/-- A program with one line of each kind that R76 gives. -/
def everyLine (pc : Nat) : State :=
  withProgram [.wr .opa (.lit 97), .wr .opa (.var 0), .rd 0 .status, .label 1, .bnz 0 0x1 1, .bz 0 0x1 1, .halt] pc
    State.reset

/-- The line a state's Host runs next. -/
def currentLine (s : State) : Option HostLine := s.host.program[s.host.pc]?

theorem test_hyp_HostLinesMeanTheirTransactions :
    (currentLine (everyLine 0) = some (.wr .opa (.lit 97)) ∧ currentLine (everyLine 1) = some (.wr .opa (.var 0))) ∧
    (currentLine (everyLine 2) = some (.rd 0 .status) ∧ currentLine (everyLine 3) = some (.label 1)) ∧
    (currentLine (everyLine 4) = some (.bnz 0 0x1 1) ∧ currentLine (everyLine 5) = some (.bz 0 0x1 1)) ∧
    currentLine (everyLine 6) = some .halt ∧ labelLine (everyLine 4).host.program 1 = some 3 :=
  ⟨⟨rfl, rfl⟩, ⟨rfl, rfl⟩, ⟨rfl, rfl⟩, rfl, rfl⟩

/-- GCD started and awaited, the Host at WAIT's RD line. -/
def waiting : State := withProgram ([cmdLine .gcd] ++ waitLines 1 0 ++ [.halt]) 2 State.reset

theorem test_hyp_WaitPollsUntilNotBusy :
    waiting.host.program = [cmdLine .gcd] ++ waitLines 1 0 ++ [HostLine.halt] ∧ 1 ∉ hostLabels [cmdLine .gcd] ∧
    waiting.host.pc = List.length [cmdLine .gcd] + 1 :=
  ⟨rfl, by decide, rfl⟩

theorem test_hyp_PseudoOperationsEncode : 2 ^ 64 - 1 < 2 ^ 64 := by decide

end Sys2Proof.Tests
end

section
/-! PROOF. The family 00_scope.md: the exact integer square root (R16), a step's turn (R12), and platform addresses
(R17). -/

namespace Sys2Proof.Machine

/-! ## The integer square root -/

/-- The search's invariant: where the root lies in `[r, r + 2 ^ b)`, the `b` bits still to be set find it. -/
theorem isqrtFrom_bounds (x : Nat) {b r : Nat} (hlo : r * r ≤ x) (hhi : x < (r + 2 ^ b) * (r + 2 ^ b)) :
    isqrtFrom x b r * isqrtFrom x b r ≤ x ∧ x < (isqrtFrom x b r + 1) * (isqrtFrom x b r + 1) := by
  induction b generalizing r with
  | zero => exact ⟨hlo, hhi⟩
  | succ b ih =>
    unfold isqrtFrom
    split
    next hset =>
      have hupper : r + 2 ^ b + 2 ^ b = r + 2 ^ (b + 1) := by rw [pow_succ]; omega
      exact ih hset (hupper ▸ hhi)
    next hclear => exact ih hlo (not_le.mp hclear)

/-- The bits that `isqrt` tries are enough for the root. -/
theorem lt_isqrt_start_sq (x : Nat) : x < 2 ^ (Nat.log2 x / 2 + 1) * 2 ^ (Nat.log2 x / 2 + 1) :=
  calc x < 2 ^ (Nat.log2 x + 1) := Nat.lt_log2_self
    _ ≤ 2 ^ (Nat.log2 x / 2 + 1 + (Nat.log2 x / 2 + 1)) := Nat.pow_le_pow_right two_pos (by omega)
    _ = 2 ^ (Nat.log2 x / 2 + 1) * 2 ^ (Nat.log2 x / 2 + 1) := pow_add ..

/-- The model's square root is the library's. -/
theorem isqrt_eq_sqrt (x : Nat) : isqrt x = Nat.sqrt x :=
  Nat.eq_sqrt.mpr (isqrtFrom_bounds x (Nat.zero_le x) (by rw [Nat.zero_add]; exact lt_isqrt_start_sq x))

/-! ## The turn a step takes -/

/-- A scheduled turn is taken off the schedule and run. -/
theorem step_of_schedule_cons {s : State} {t : Turn} {ts : List Turn} (h : s.schedule = t :: ts) :
    step s = runTurn t { s with schedule := ts, turnCount := s.turnCount + 1 } := by
  rw [step_eq, nextTurn_cons h, takeTurn, h, List.tail_cons]

/-- With nothing scheduled, the free turn for the count of turns is run. -/
theorem step_of_schedule_nil {s : State} (h : s.schedule = []) :
    step s = runTurn (Config.freeTurn s.turnCount) { s with turnCount := s.turnCount + 1 } := by
  have hturn : nextTurn s = Config.freeTurn s.turnCount := by simp [nextTurn, h]
  have htake : takeTurn s = { s with turnCount := s.turnCount + 1 } := by simp [takeTurn, h]
  rw [step_eq, hturn, htake]

/-! ## Platform addresses -/

/-- An address of the window reaches its offset (R17). -/
theorem busAccess_base_add {off : Nat} (h : off ≤ 0x3F) (base : Nat) (a : Access) (s : State) :
    busAccess base (base + off) a s = hostAccess off a s := by
  rcases busAccess_cases base (base + off) a s with ⟨-, -, hin⟩ | ⟨hout, -⟩
  · rw [hin, Nat.add_sub_cancel_left]
  · omega

/-- An address outside the window does not reach the block (log entry 8). -/
theorem busAccess_outside {base addr : Nat} (h : addr < base ∨ base + 0x40 ≤ addr) (a : Access) (s : State) :
    busAccess base addr a s = s := by
  rcases busAccess_cases base addr a s with ⟨hlo, hhi, -⟩ | ⟨-, hout⟩
  · omega
  · exact hout

/-! ## The obligations -/

/-- Settles O28: the digit-by-digit root is the library's `Nat.sqrt`, by the search's invariant. -/
theorem isqrtIsExact : Obligations.IsqrtIsExact := by
  intro x
  rw [isqrt_eq_sqrt]
  exact ⟨Nat.sqrt_le x, fun _ => Nat.le_sqrt.mpr⟩

/-- Settles O4, by whether the schedule lists a turn. -/
theorem stepTakesTheNextTurn : Obligations.StepTakesTheNextTurn :=
  ⟨fun _ _ _ => step_of_schedule_cons, fun _ => step_of_schedule_nil⟩

/-- Settles O20, by whether the address lies in the window. -/
theorem platformAddressIsBasePlusOffset : Obligations.PlatformAddressIsBasePlusOffset :=
  ⟨fun s base _ a h => busAccess_base_add h base a s, fun s _ _ a h => busAccess_outside h a s⟩

end Sys2Proof.Machine
end

section
/-! PROOF. The primality tester's answer: trial division decides primality (40_primality.md R101). -/

namespace Sys2Proof.Machine

/-- With enough trial divisions, no divisor is found exactly when none of `k`, `k + 2`, … up to the limit divides. -/
theorem trialDivide_iff {num lim fuel k : Nat} (hfuel : lim < k + 2 * fuel) :
    trialDivide num lim fuel k = true ↔ ∀ j, k + 2 * j ≤ lim → ¬(k + 2 * j) ∣ num := by
  induction fuel generalizing k with
  | zero => exact ⟨fun _ j hj => by omega, fun _ => rfl⟩
  | succ fuel ih =>
    have hshift : (∀ j, k + 2 * j ≤ lim → ¬(k + 2 * j) ∣ num) ↔
        (k ≤ lim → ¬k ∣ num) ∧ ∀ j, k + 2 + 2 * j ≤ lim → ¬(k + 2 + 2 * j) ∣ num := by
      rw [← Nat.and_forall_add_one]
      simp only [Nat.mul_zero, Nat.add_zero, Nat.mul_add_one, Nat.add_comm _ 2, Nat.add_assoc, Nat.add_left_comm]
    unfold trialDivide
    rw [hshift]
    split
    next hk =>
      split
      next hdvd => simp [hk, Nat.dvd_of_mod_eq_zero hdvd]
      next hndvd =>
        rw [ih (by omega)]
        simp [Nat.dvd_iff_mod_eq_zero, hndvd]
    next hk => simpa [hk] using fun j hj => by omega

/-- An odd composite number has an odd divisor from 3 up to its square root. -/
theorem exists_odd_divisor {n : Nat} (h2 : 2 ≤ n) (hodd : n % 2 = 1) (hcomp : ¬Nat.Prime n) :
    ∃ j, 3 + 2 * j ≤ Nat.sqrt n ∧ 3 + 2 * j ∣ n := by
  have hdvd := Nat.minFac_dvd n
  have hle : n.minFac ≤ Nat.sqrt n := Nat.le_sqrt'.mpr (Nat.minFac_sq_le_self (by omega) hcomp)
  have hge : 2 ≤ n.minFac := (Nat.minFac_prime (by omega)).two_le
  have hfac : n.minFac % 2 = 1 := Nat.odd_iff.mp ((Nat.odd_iff.mpr hodd).of_dvd_nat hdvd)
  obtain ⟨j, hj⟩ : ∃ j, n.minFac = 3 + 2 * j := ⟨(n.minFac - 3) / 2, by omega⟩
  exact ⟨j, hj ▸ hle, hj ▸ hdvd⟩

/-- From 3 on, a number lies beyond the tester's last trial divisor. -/
theorem sqrt_add_one_lt {n : Nat} (h : 3 ≤ n) : Nat.sqrt n + 1 < n := by
  have := Nat.sqrt_le n
  by_contra hle
  nlinarith

/-- `isPrime` decides primality (R101). -/
theorem isPrime_iff (n : Nat) : isPrime n = true ↔ Nat.Prime n := by
  unfold isPrime
  split
  next h => simp [h, Nat.prime_two]
  next hne =>
    split
    next h =>
      refine iff_of_false (by simp) fun hp => ?_
      have := hp.two_le
      have := hp.eq_two_or_odd
      omega
    next h =>
      push Not at h
      rw [isqrt_eq_sqrt, trialDivide_iff (by omega)]
      constructor
      · intro hnone
        by_contra hcomp
        obtain ⟨j, hle, hdvd⟩ := exists_odd_divisor (by omega) (by omega) hcomp
        exact hnone j (by omega) hdvd
      · intro hp j hle hdvd
        have := sqrt_add_one_lt (n := n) (by omega)
        rcases hp.eq_one_or_self_of_dvd _ hdvd with h1 | hself <;> omega

end Sys2Proof.Machine
end

section
/-! PROOF. The family 10_state.md: what STATUS, the results, the operands, CMD and the internal registers hold, and that
every step keeps the invariants. -/

namespace Sys2Proof.Machine

/-! ## STATUS as the Host reads it -/

/-- Every bit of STATUS (10_state.md R24). -/
theorem Status.getLsbD_word (st : Status) (i : Nat) :
    st.word.getLsbD i =
      match i with
      | 0 => st.busy
      | 1 => st.done
      | 2 => st.ovr
      | 3 => false
      | i + 4 => st.errcode.getLsbD i := by
  have happend : st.word.getLsbD i =
      (0#56 ++ st.errcode ++ 0#1 ++ BitVec.ofBool st.ovr ++ BitVec.ofBool st.done ++
        BitVec.ofBool st.busy).getLsbD i := rfl
  simp only [happend, BitVec.getLsbD_append, BitVec.getLsbD_ofBool]
  match i with
  | 0 | 1 | 2 | 3 => simp
  | i + 4 =>
    by_cases hi : i < 4
    · simp [hi]
    · simp [hi, BitVec.getLsbD_of_ge _ _ (not_lt.mp hi)]

/-- STATUS[7:4] is ERRCODE. -/
theorem Status.extractLsb'_word_errcode (st : Status) : st.word.extractLsb' 4 4 = st.errcode := by
  ext i hi
  rw [BitVec.getElem_extractLsb', Nat.add_comm]
  exact (st.getLsbD_word (i + 4)).trans (BitVec.getLsbD_eq_getElem hi)

/-- STATUS[63:8] is 0. -/
theorem Status.extractLsb'_word_reserved (st : Status) : st.word.extractLsb' 8 56 = 0 := by
  ext i hi
  have hlarge : st.errcode.getLsbD (i + 4) = false := BitVec.getLsbD_of_ge _ _ (by omega)
  rw [BitVec.getElem_extractLsb', Nat.add_comm, BitVec.ofNat_eq_ofNat, BitVec.getElem_zero]
  exact (st.getLsbD_word (i + 4 + 4)).trans hlarge

/-! ## Writes to the registers -/

/-- The operand registers (R21). -/
def IsOperand (r : RegName) : Prop := r = .opa ∨ r = .opb ∨ r = .opc

/-- Only a write to an operand register changes one. -/
theorem writeReg_operands {r : RegName} (h : ¬IsOperand r) (v : Word) (s : State) :
    (writeReg r v s).opa = s.opa ∧ (writeReg r v s).opb = s.opb ∧ (writeReg r v s).opc = s.opc := by
  rcases writeReg_cases r v s with ⟨rfl, -⟩ | ⟨rfl, -⟩ | ⟨rfl, -⟩ | ⟨-, -, e⟩ | ⟨-, -, e⟩ | ⟨-, e⟩
  · exact absurd (.inl rfl) h
  · exact absurd (.inr (.inl rfl)) h
  · exact absurd (.inr (.inr rfl)) h
  all_goals simp [e]

/-- A register write accepts a command, or keeps BUSY and CMD. -/
theorem writeReg_command (r : RegName) (v : Word) (s : State) :
    (r = .cmd ∧ s.status.busy = false ∧ writeReg r v s = accept v s) ∨
    ((writeReg r v s).status.busy = s.status.busy ∧ (writeReg r v s).cmd = s.cmd) := by
  rcases writeReg_cases r v s with ⟨-, e⟩ | ⟨-, e⟩ | ⟨-, e⟩ | ⟨-, -, e⟩ | h | ⟨-, e⟩
  case inr.inr.inr.inr.inl => exact .inl h
  all_goals exact .inr (by simp [e])

/-- Where an operand register lies in the window. -/
theorem IsOperand.regOffset {r : RegName} (h : IsOperand r) :
    regOffset r = 0x10 ∨ regOffset r = 0x18 ∨ regOffset r = 0x20 := by
  rcases h with rfl | rfl | rfl <;> decide

/-! ## The results change only on success (R22) -/

/-- The Engine's turn keeps the results, or completes a command without error. -/
theorem engineTurn_results {s t : State} (h : engineTurn s = .next t) :
    (t.res0 = s.res0 ∧ t.res1 = s.res1 ∧ t.res2 = s.res2) ∨
    (s.engOp ≠ .none ∧ t.status.busy = false ∧ t.status.done = true ∧ t.status.errcode = 0) := by
  rcases engineTurn_forms h with
    ⟨-, rfl⟩ | ⟨he, -, a, rfl⟩ | ⟨-, -, code, -, rfl⟩ | ⟨he, ⟨a, b, c, rfl⟩ | ⟨code, -, rfl⟩ | ⟨kg, rfl⟩⟩
  · exact .inl ⟨rfl, rfl, rfl⟩
  · exact .inr ⟨he, rfl, rfl, rfl⟩
  · exact .inl ⟨rfl, rfl, rfl⟩
  · exact .inr ⟨by simp [he], rfl, rfl, rfl⟩
  · exact .inl ⟨rfl, rfl, rfl⟩
  · exact .inl ⟨rfl, rfl, rfl⟩

/-- A step keeps the results, resets the block, or completes a command without error in the Engine's turn. -/
theorem step_results {s t : State} (h : step s = .next t) :
    (t.res0 = s.res0 ∧ t.res1 = s.res1 ∧ t.res2 = s.res2) ∨ nextTurn s = .reset ∨
    (nextTurn s = .engine ∧ s.engOp ≠ .none ∧ t.status.busy = false ∧ t.status.done = true ∧
      t.status.errcode = 0) := by
  rcases step_cases h with ⟨hn, -⟩ | ⟨hn, he⟩ | ⟨r, v, -, -, ht⟩ | ⟨-, -, -, ht⟩
  · exact .inr (.inl hn)
  · rcases engineTurn_results he with hkept | hdone
    · exact .inl hkept
    · exact .inr (.inr ⟨hn, hdone⟩)
  · obtain ⟨h0, h1, h2, -⟩ := writeReg_frame r v (takeTurn s)
    rw [ht]
    exact .inl ⟨h0, h1, h2⟩
  · rw [ht]
    exact .inl ⟨rfl, rfl, rfl⟩

/-! ## The operands change only by Host writes (R21) -/

/-- A step keeps the operands, resets the block, or is a Host write to an operand register. -/
theorem step_operands {s t : State} (h : step s = .next t) :
    (t.opa = s.opa ∧ t.opb = s.opb ∧ t.opc = s.opc) ∨ nextTurn s = .reset ∨
    ∃ r v, IsOperand r ∧ WritesReg s r v := by
  rcases step_cases h with ⟨hn, -⟩ | ⟨-, he⟩ | ⟨r, v, hw, -, ht⟩ | ⟨-, -, -, ht⟩
  · exact .inr (.inl hn)
  · obtain ⟨-, ha, hb, hc, -⟩ := engineTurn_frame he
    exact .inl ⟨ha, hb, hc⟩
  · by_cases hr : IsOperand r
    · exact .inr (.inr ⟨r, v, hr, hw⟩)
    · rw [ht]
      exact .inl (writeReg_operands hr v (takeTurn s))
  · rw [ht]
    exact .inl ⟨rfl, rfl, rfl⟩

/-- A step that changes an operand register is a reset or a Host write to one. -/
theorem writesReg_of_operand_changed {s t : State} (h : step s = .next t)
    (hchange : t.opa ≠ s.opa ∨ t.opb ≠ s.opb ∨ t.opc ≠ s.opc) :
    nextTurn s = .reset ∨ ∃ r v, IsOperand r ∧ WritesReg s r v := by
  rcases step_operands h with ⟨ha, hb, hc⟩ | hw
  · simp [ha, hb, hc] at hchange
  · exact hw

/-- The turns that write an operand register. -/
theorem WritesReg.operand_turn {s : State} {r : RegName} {v : Word} (h : WritesReg s r v) (hr : IsOperand r) :
    nextTurn s = .hostLine ∨
    (∃ off v, (off = 0x10 ∨ off = 0x18 ∨ off = 0x20) ∧ nextTurn s = .host off (.write 8 v)) ∨
    (∃ addr off v, (off = 0x10 ∨ off = 0x18 ∨ off = 0x20) ∧ addr = Config.baseAddr + off ∧
      nextTurn s = .bus addr (.write 8 v)) := by
  rcases h with hn | hn | ⟨hn, -⟩
  · exact .inr (.inl ⟨_, _, hr.regOffset, hn⟩)
  · exact .inr (.inr ⟨_, _, _, hr.regOffset, rfl, hn⟩)
  · exact .inl hn

/-- The line of a Host's turn that writes register `r`. -/
theorem WritesReg.line {s : State} {r : RegName} {v : Word} (h : WritesReg s r v) (hn : nextTurn s = .hostLine) :
    ∃ x, s.host.program[s.host.pc]? = some (.wr r x) := by
  rcases h with h | h | ⟨-, x, hline, -⟩
  · simp [hn] at h
  · simp [hn] at h
  · exact ⟨x, hline⟩

/-! ## Changes of the state that the Engine does not see (R21, R23) -/

/-- A change of the state that an Engine step neither looks at, beyond the operands' copies and ENG_OP, nor undoes. -/
structure EngineBlind (f : State → State) : Prop where
  kg (s : State) : (f s).kg = s.kg
  nextDraw (s : State) : nextDraw (f s) = nextDraw s
  consumeDraw (s : State) : consumeDraw (f s) = f (consumeDraw s)
  setKg (kg : KgRegs) (s : State) : setKg kg (f s) = f (setKg kg s)
  writeRes0 (v : Word) (s : State) : writeRes0 v (f s) = f (writeRes0 v s)
  writeKeypair (e d n : Word) (s : State) : writeKeypair e d n (f s) = f (writeKeypair e d n s)
  complete (code : ErrCode) (s : State) : complete code (f s) = f (complete code s)

section EngineBlind

variable {f : State → State} (hf : EngineBlind f)
include hf

theorem EngineBlind.reject (cap : Config.RetryCap) (s : State) : reject cap (f s) = f (reject cap s) := by
  cases cap with
  | none => simp [Machine.reject, hf.kg, hf.setKg]
  | some k => simp [Machine.reject, hf.kg, hf.setKg, hf.complete, apply_ite f]

theorem EngineBlind.completeKeypair (e : Nat) (d : Option Nat) (s : State) :
    completeKeypair e d (f s) = f (completeKeypair e d s) := by
  cases d <;> simp [Machine.completeKeypair, hf.kg, hf.writeKeypair, hf.complete]

/-- A KEYGEN step commutes with the change, phase by phase. -/
theorem EngineBlind.kgStep (cap : Config.RetryCap) (v : Nat) (s : State) :
    kgStep cap v (f s) = f (kgStep cap v s) := by
  unfold Machine.kgStep
  rw [hf.kg]
  split
  · simp [stepP, hf.kg, hf.setKg, hf.reject, apply_ite f]
  · simp [stepQ, hf.kg, hf.setKg, hf.reject, apply_ite f]
  · simp [stepE, hf.kg, hf.completeKeypair, hf.reject, apply_ite f]

theorem EngineBlind.completeInverse (d : Option Nat) (s : State) :
    completeInverse d (f s) = f (completeInverse d s) := by
  cases d <;> simp [Machine.completeInverse, hf.writeRes0, hf.complete]

theorem EngineBlind.completeModexp (b x m : Nat) (s : State) :
    completeModexp b x m (f s) = f (completeModexp b x m s) := by
  simp [Machine.completeModexp, hf.writeRes0, hf.complete, apply_ite f]

variable {s t : State}

/-- ISPRIME reads only LA. -/
theorem EngineBlind.exec_isprime (ha : (f s).la = s.la) (h : exec .isprime s = .next t) :
    exec .isprime (f s) = .next (f t) := by
  cases h
  simp [exec, execIsprime, State.operandA, ha, hf.writeRes0, hf.complete]

/-- GCD reads only LA and LB. -/
theorem EngineBlind.exec_gcd (ha : (f s).la = s.la) (hb : (f s).lb = s.lb) (h : exec .gcd s = .next t) :
    exec .gcd (f s) = .next (f t) := by
  cases h
  simp [exec, execGcd, State.operandA, State.operandB, ha, hb, hf.writeRes0, hf.complete]

/-- MODINV reads only LA and LB. -/
theorem EngineBlind.exec_modinv (ha : (f s).la = s.la) (hb : (f s).lb = s.lb) (h : exec .modinv s = .next t) :
    exec .modinv (f s) = .next (f t) := by
  cases h
  simp [exec, execModinv, State.operandA, State.operandB, ha, hb, hf.completeInverse]

/-- KEYGEN reads no operand. -/
theorem EngineBlind.exec_keygen (h : exec .keygen s = .next t) : exec .keygen (f s) = .next (f t) := by
  cases h
  simp [exec, execKeygen, hf.nextDraw, hf.consumeDraw, hf.kgStep]

/-- MODEXP reads LA, LB and LC. -/
theorem EngineBlind.exec_modexp (ha : (f s).la = s.la) (hb : (f s).lb = s.lb) (hc : (f s).lc = s.lc)
    (h : exec .modexp s = .next t) : exec .modexp (f s) = .next (f t) := by
  cases h
  simp [exec, execModexp, State.operandA, State.operandB, State.operandC, ha, hb, hc, hf.completeModexp]

/-- The Engine's turn commutes with a change that keeps ENG_OP and the operands' copies. -/
theorem EngineBlind.engineTurn (he : (f s).engOp = s.engOp) (ha : (f s).la = s.la) (hb : (f s).lb = s.lb)
    (hc : (f s).lc = s.lc) (h : engineTurn s = .next t) : engineTurn (f s) = .next (f t) := by
  unfold Machine.engineTurn at h ⊢
  rw [he]
  split at h
  · cases h
    rfl
  · rename_i i _
    cases i with
    | isprime => exact hf.exec_isprime ha h
    | gcd => exact hf.exec_gcd ha hb h
    | modinv => exact hf.exec_modinv ha hb h
    | keygen => exact hf.exec_keygen h
    | modexp => exact hf.exec_modexp ha hb hc h
  · cases h
    simp [execIllegal, hf.complete]

end EngineBlind

/-- Writing the operand registers is nothing to the Engine. -/
theorem engineBlind_setOperands (a b c : Word) : EngineBlind fun s => { s with opa := a, opb := b, opc := c } := by
  constructor <;> intros <;> rfl

/-- Nor is writing the copies LB and LC, save where a command reads them. -/
theorem engineBlind_setLbLc (b c : Word) : EngineBlind fun s => { s with lb := b, lc := c } := by
  constructor <;> intros <;> rfl

@[inherit_doc engineBlind_setLbLc]
theorem engineBlind_setLc (c : Word) : EngineBlind fun s => { s with lc := c } := by
  constructor <;> intros <;> rfl

@[inherit_doc engineBlind_setLbLc]
theorem engineBlind_setLatches (a b c : Word) : EngineBlind fun s => { s with la := a, lb := b, lc := c } := by
  constructor <;> intros <;> rfl

/-! ## CMD holds the last accepted word (R26) -/

/-- The Engine's turn does not set BUSY. -/
theorem engineTurn_busy {s t : State} (h : engineTurn s = .next t) (hb : s.status.busy = false) :
    t.status.busy = false := by
  rcases engineTurn_forms h with
    ⟨-, rfl⟩ | ⟨-, -, a, rfl⟩ | ⟨-, -, code, -, rfl⟩ | ⟨-, ⟨a, b, c, rfl⟩ | ⟨code, -, rfl⟩ | ⟨kg, rfl⟩⟩
  case inr.inr.inr.inr.inr => exact hb
  case inl => exact hb
  all_goals rfl

/-- A step is a reset, the acceptance of a command, or one that keeps CMD and does not set BUSY. -/
theorem step_command {s t : State} (h : step s = .next t) :
    (nextTurn s = .reset ∧ t.status.busy = false) ∨
    (s.status.busy = false ∧ ∃ v, WritesReg s .cmd v ∧ t = { accept v (takeTurn s) with host := t.host }) ∨
    (t.cmd = s.cmd ∧ (s.status.busy = false → t.status.busy = false)) := by
  rcases step_cases h with ⟨hn, rfl⟩ | ⟨-, he⟩ | ⟨r, v, hw, -, ht⟩ | ⟨-, -, -, ht⟩
  · exact .inl ⟨hn, rfl⟩
  · exact .inr (.inr ⟨(engineTurn_frame he).1, fun hb => engineTurn_busy he hb⟩)
  · rcases writeReg_command r v (takeTurn s) with ⟨rfl, hidle, e⟩ | ⟨hbusy, hcmd⟩
    · exact .inr (.inl ⟨hidle, v, hw, e ▸ ht⟩)
    · rw [ht]
      exact .inr (.inr ⟨hcmd, hbusy.trans⟩)
  · rw [ht]
    exact .inr (.inr ⟨rfl, id⟩)

/-! ## The internal registers are invisible to the Host (R30, R32) -/

/-- The internal registers overwritten. -/
def State.withHidden (la lb lc : Word) (kg : KgRegs) (e : EngOp) (s : State) : State :=
  { s with la := la, lb := lb, lc := lc, kg := kg, engOp := e }

/-- What the Host has received, and what it can read, is the same in both states. -/
def SameToHost (s t : State) : Prop := s.host = t.host ∧ ∀ r, readReg r s = readReg r t

theorem sameToHost_withHidden (la lb lc : Word) (kg : KgRegs) (e : EngOp) (s : State) :
    SameToHost (s.withHidden la lb lc kg e) s := ⟨rfl, fun r => by cases r <;> rfl⟩

/-- The Host's log is no register. -/
@[simp] theorem readReg_respond (r : RegName) (p : Response) (s : State) : readReg r (respond p s) = readReg r s := by
  cases r <;> rfl

theorem SameToHost.respond {s t : State} (h : SameToHost s t) (p : Response) :
    SameToHost (respond p s) (respond p t) := by
  obtain ⟨hhost, hread⟩ := h
  exact ⟨by simp [hhost], fun r => by simp [hread r]⟩

/-- A register write goes by BUSY and by nothing hidden. -/
theorem sameToHost_writeReg_withHidden (r : RegName) (v la lb lc : Word) (kg : KgRegs) (e : EngOp) (s : State) :
    SameToHost (writeReg r v (s.withHidden la lb lc kg e)) (writeReg r v s) := by
  cases r with
  | cmd =>
    have hbusy : (s.withHidden la lb lc kg e).status = s.status := rfl
    unfold writeReg commandWrite
    rw [hbusy]
    cases s.status.busy <;> exact ⟨rfl, fun r => by cases r <;> rfl⟩
  | _ => exact ⟨rfl, fun r => by cases r <;> rfl⟩

/-- A Host access answers and leaves the same, whatever the internal registers hold. -/
theorem sameToHost_hostAccess_withHidden (off : Nat) (a : Access) (la lb lc : Word) (kg : KgRegs) (e : EngOp)
    (s : State) : SameToHost (hostAccess off a (s.withHidden la lb lc kg e)) (hostAccess off a s) := by
  have hsame := sameToHost_withHidden la lb lc kg e s
  cases a with
  | read size =>
    simp only [hostAccess, hostRead]
    split
    · rw [hsame.2]
      exact hsame.respond _
    · exact hsame.respond _
  | write size v =>
    simp only [hostAccess, hostWrite]
    split
    · exact (sameToHost_writeReg_withHidden _ v la lb lc kg e s).respond _
    · exact hsame.respond _

/-- A Host access leaves the keypair generator's registers alone. -/
theorem hostAccess_kg (off : Nat) (a : Access) (s : State) : (hostAccess off a s).kg = s.kg := by
  rcases hostAccess_forms off a s with ⟨r, v, -, -, h⟩ | ⟨p, h⟩
  · obtain ⟨-, -, -, hkg, -⟩ := writeReg_frame r v s
    rw [h, respond_kg, hkg]
  · rw [h, respond_kg]

/-! ## The invariants (R25, R31, R200, R137) -/

/-- The invariants speak of STATUS, ENG_OP, CMD and the KG_* registers only. -/
theorem State.Inv.congr {s t : State} (h : s.Inv) (hst : t.status = s.status) (he : t.engOp = s.engOp)
    (hcmd : t.cmd = s.cmd) (hkg : t.kg = s.kg) : t.Inv where
  busy_iff := by simpa only [hst, he] using h.busy_iff
  busy_done := by simpa only [hst] using h.busy_done
  busy_errcode := by simpa only [hst] using h.busy_errcode
  fresh := by simpa only [hst, hcmd] using h.fresh
  errcode_le := by simpa only [hst] using h.errcode_le
  engOp_cmd := by simpa only [he, hcmd] using h.engOp_cmd
  kg_idle := by simpa only [he, hkg] using h.kg_idle
  kg_progress := by simpa only [he, hkg] using h.kg_progress
  kg_rej := by simpa only [hkg] using h.kg_rej

/-- While BUSY = 0 no command is in execution. -/
theorem State.Inv.engOp_of_idle {s : State} (h : s.Inv) (hb : s.status.busy = false) : s.engOp = .none := by
  by_contra he
  simp [h.busy_iff.mpr he] at hb

/-- While KEYGEN is in execution, BUSY = 1. -/
theorem State.Inv.busy_of_keygen {s : State} (h : s.Inv) (he : s.engOp = .op .keygen) : s.status.busy = true :=
  h.busy_iff.mpr (by simp [he])

/-- The error codes are 0 to 4 (R25 (d)). -/
theorem ErrCode.code_le (c : ErrCode) : c.code.toNat ≤ 4 := by cases c <;> decide

/-- A word at acceptance names a command or is illegal. -/
theorem EngOp.ofWord_ne_none (w : Word) : EngOp.ofWord w ≠ .none := by
  unfold EngOp.ofWord
  split <;> simp

/-- The reset values are KEYGEN's start. -/
theorem KgRegs.reset_progress : KgRegs.reset.Progress := ⟨rfl, rfl, rfl, rfl⟩

theorem resetBlock_inv (s : State) : (resetBlock s).Inv where
  busy_iff := by simp [Status.reset]
  busy_done := by simp [Status.reset]
  busy_errcode := by simp [Status.reset]
  fresh := by simp [Status.reset]
  errcode_le := by simp [Status.reset]
  engOp_cmd := .inl rfl
  kg_idle _ := rfl
  kg_progress := by simp
  kg_rej k _ := k.2

/-- A completion meets the invariants, from any state. -/
theorem complete_inv (c : ErrCode) (s : State) : (complete c s).Inv where
  busy_iff := by simp
  busy_done := by simp
  busy_errcode := by simp
  fresh := by simp
  errcode_le := c.code_le
  engOp_cmd := .inl rfl
  kg_idle _ := rfl
  kg_progress := by simp
  kg_rej k _ := k.2

/-- An acceptance finds the KG_* registers at their reset values. -/
theorem State.Inv.accept {s : State} (h : s.Inv) (hb : s.status.busy = false) (w : Word) :
    (accept w s).Inv := by
  have hkg : s.kg = KgRegs.reset := h.kg_idle (by simp [h.engOp_of_idle hb])
  exact {
    busy_iff := by simp [EngOp.ofWord_ne_none]
    busy_done := by simp
    busy_errcode := by simp
    fresh := by simp
    errcode_le := by simp
    engOp_cmd := .inr rfl
    kg_idle := fun _ => hkg
    kg_progress := fun _ => by simpa [hkg] using KgRegs.reset_progress
    kg_rej := h.kg_rej }

/-- A dropped CMD write sets only OVR, which no clause reads while BUSY = 1. -/
theorem State.Inv.overrun {s : State} (h : s.Inv) (hb : s.status.busy = true) : (overrun s).Inv where
  busy_iff := h.busy_iff
  busy_done := h.busy_done
  busy_errcode := h.busy_errcode
  fresh hidle := by simp [hb] at hidle
  errcode_le := h.errcode_le
  engOp_cmd := h.engOp_cmd
  kg_idle := h.kg_idle
  kg_progress := h.kg_progress
  kg_rej := h.kg_rej

theorem State.Inv.writeReg {s : State} (h : s.Inv) (r : RegName) (v : Word) : (writeReg r v s).Inv := by
  rcases writeReg_cases r v s with ⟨-, e⟩ | ⟨-, e⟩ | ⟨-, e⟩ | ⟨-, hb, e⟩ | ⟨-, hb, e⟩ | ⟨-, e⟩ <;> rw [e]
  · exact h.congr rfl rfl rfl rfl
  · exact h.congr rfl rfl rfl rfl
  · exact h.congr rfl rfl rfl rfl
  · exact h.overrun hb
  · exact h.accept hb v
  · exact h

/-! ### KEYGEN's steps -/

theorem KgRegs.progress_P {kg : KgRegs} (h : kg.phase = .P) :
    kg.Progress ↔ kg.p = 0 ∧ kg.q = 0 ∧ kg.n = 0 ∧ kg.phi = 0 := by simp only [KgRegs.Progress, h]

theorem KgRegs.progress_Q {kg : KgRegs} (h : kg.phase = .Q) :
    kg.Progress ↔ KeyPrime kg.p ∧ kg.q = 0 ∧ kg.n = 0 ∧ kg.phi = 0 := by simp only [KgRegs.Progress, h]

theorem KgRegs.progress_E {kg : KgRegs} (h : kg.phase = .E) :
    kg.Progress ↔ KeyPrime kg.p ∧ KeyPrime kg.q ∧ kg.p ≠ kg.q ∧ kg.n = kg.p * kg.q ∧
      kg.phi = (kg.p - 1) * (kg.q - 1) := by simp only [KgRegs.Progress, h]

/-- The range of a draw in phases P and Q (R133, R134). -/
theorem inRange_prime_phase {kg : KgRegs} (h : kg.phase = .P ∨ kg.phase = .Q) (v : Nat) :
    inRange kg v = true ↔ Config.primeLo ≤ v ∧ v ≤ Config.primeHi := by
  rcases h with h | h <;> simp [inRange, samplingRange, h]

/-- What phases P and Q accept is a prime the generator may hold. -/
theorem keyPrime_of_draw {kg : KgRegs} (h : kg.phase = .P ∨ kg.phase = .Q) {v : Nat} (hrange : inRange kg v = true)
    (hprime : isPrime v = true) : KeyPrime v :=
  ⟨(isPrime_iff v).mp hprime, (inRange_prime_phase h v).mp hrange⟩

section Keygen

variable {s : State} (h : s.Inv) (he : s.engOp = .op .keygen)
include h he

/-- KEYGEN may write its registers to what their phase says, with KG_REJ below the cap. -/
theorem State.Inv.setKg {kg : KgRegs} (hprog : kg.Progress)
    (hrej : ∀ k, Config.kgRetryCap = some k → kg.rej < k.val) : (setKg kg s).Inv where
  busy_iff := h.busy_iff
  busy_done := h.busy_done
  busy_errcode := h.busy_errcode
  fresh := h.fresh
  errcode_le := h.errcode_le
  engOp_cmd := h.engOp_cmd
  kg_idle hne := absurd he hne
  kg_progress _ := hprog
  kg_rej := hrej

/-- A rejected draw keeps the registers that the phase speaks of. -/
theorem State.Inv.reject : (reject Config.kgRetryCap s).Inv := by
  rcases reject_cases Config.kgRetryCap s with ⟨hrej, e⟩ | ⟨k, -, -, e⟩ <;> rw [e]
  · exact h.setKg he (h.kg_progress he) hrej
  · exact complete_inv _ s

/-- An accepted draw of phase P is KG_P's prime. -/
theorem State.Inv.stepP (hphase : s.kg.phase = .P) (v : Nat) : (stepP Config.kgRetryCap v s).Inv := by
  obtain ⟨-, hq, hn, hphi⟩ := (KgRegs.progress_P hphase).mp (h.kg_progress he)
  unfold Machine.stepP
  split
  next hacc =>
    obtain ⟨hrange, hprime⟩ := hacc
    refine h.setKg he ((KgRegs.progress_Q rfl).mpr ⟨?_, hq, hn, hphi⟩) fun k _ => k.2
    exact keyPrime_of_draw (.inl hphase) hrange hprime
  next => exact h.reject he

/-- An accepted draw of phase Q is KG_Q's prime, another one than KG_P's. -/
theorem State.Inv.stepQ (hphase : s.kg.phase = .Q) (v : Nat) : (stepQ Config.kgRetryCap v s).Inv := by
  obtain ⟨hp, -, -, -⟩ := (KgRegs.progress_Q hphase).mp (h.kg_progress he)
  unfold Machine.stepQ
  split
  next hacc =>
    obtain ⟨hrange, hprime, hne⟩ := hacc
    refine h.setKg he ((KgRegs.progress_E rfl).mpr ⟨hp, ?_, hne.symm, rfl, rfl⟩) fun k _ => k.2
    exact keyPrime_of_draw (.inr hphase) hrange hprime
  next => exact h.reject he

/-- Phase E completes or rejects. -/
theorem State.Inv.stepE (v : Nat) : (stepE Config.kgRetryCap v s).Inv := by
  unfold Machine.stepE
  split
  next =>
    unfold completeKeypair
    split <;> exact complete_inv _ _
  next => exact h.reject he

theorem State.Inv.kgStep (v : Nat) : (kgStep Config.kgRetryCap v s).Inv := by
  unfold Machine.kgStep
  split
  next hphase => exact h.stepP he hphase v
  next hphase => exact h.stepQ he hphase v
  next => exact h.stepE he v

end Keygen

/-! ### Every turn -/

/-- Every command but KEYGEN completes in its one Engine step. -/
theorem exec_completes {i : Instr} (hi : i ≠ .keygen) (s : State) :
    ∃ c u, exec i s = .next (complete c u) := by
  cases i with
  | isprime | gcd => exact ⟨_, _, rfl⟩
  | modinv =>
    simp only [exec, execModinv, completeInverse]
    split <;> exact ⟨_, _, rfl⟩
  | keygen => exact absurd rfl hi
  | modexp =>
    simp only [exec, execModexp, completeModexp]
    split <;> exact ⟨_, _, rfl⟩

/-- The Engine's turn is idle, completes a command, or is a KEYGEN step. -/
theorem State.Inv.engineTurn {s t : State} (h : s.Inv) (ht : engineTurn s = .next t) : t.Inv := by
  rcases engineTurn_cases s with ⟨-, e⟩ | ⟨i, he, e⟩ | ⟨-, e⟩ <;> rw [e] at ht
  · cases ht
    exact h
  · by_cases hi : i = .keygen
    · subst hi
      cases ht
      exact (h.congr rfl rfl rfl rfl : (consumeDraw s).Inv).kgStep he _
    · obtain ⟨c, u, hc⟩ := exec_completes hi s
      rw [hc] at ht
      cases ht
      exact complete_inv c u
  · cases ht
    exact complete_inv _ s

/-- A step is the next turn's, and each kind of turn keeps the invariants. -/
theorem State.Inv.step {s t : State} (h : s.Inv) (hstep : step s = .next t) : t.Inv := by
  have hturn : (takeTurn s).Inv := h.congr rfl rfl rfl rfl
  rcases step_cases hstep with ⟨-, rfl⟩ | ⟨-, he⟩ | ⟨r, v, -, -, ht⟩ | ⟨-, -, -, ht⟩
  · exact resetBlock_inv _
  · exact hturn.engineTurn he
  · rw [ht]
    exact (hturn.writeReg r v).congr rfl rfl rfl rfl
  · rw [ht]
    exact hturn.congr rfl rfl rfl rfl

/-! ## The obligations -/

/-- Settles O45, by what each kind of turn does to the invariants. -/
theorem stepKeepsTheInvariants : Obligations.StepKeepsTheInvariants := fun _ _ h hstep => h.step hstep

/-- Settles O44: the state after reset is what a reset leaves. -/
theorem resetMeetsTheInvariants : Obligations.ResetMeetsTheInvariants := resetBlock_inv State.reset

/-- Settles O25: every field is written out. -/
theorem resetStateValues : Obligations.ResetStateValues := by
  unfold Obligations.ResetStateValues
  decide

/-- Settles O22, bit by bit. -/
theorem statusWordLayout : Obligations.StatusWordLayout := fun s =>
  ⟨rfl, s.status.getLsbD_word 0, s.status.getLsbD_word 1, s.status.getLsbD_word 2, s.status.getLsbD_word 3,
    s.status.extractLsb'_word_errcode, s.status.extractLsb'_word_reserved⟩

/-- Settles O12: only a completion without error writes results, and a Host write to them is ignored. -/
theorem resultsChangeOnlyOnSuccess : Obligations.ResultsChangeOnlyOnSuccess := by
  refine ⟨fun s t hinv h hchange => ?_, fun s off v hoff => ?_⟩
  · rcases step_results h with ⟨h0, h1, h2⟩ | hreset | ⟨hn, he, hdone⟩
    · simp [h0, h1, h2] at hchange
    · exact .inl hreset
    · exact .inr ⟨hn, hinv.busy_iff.mpr he, hdone⟩
  · rcases hoff with rfl | rfl | rfl <;> rfl

/-- Settles O13: the forms of a step, and the Engine's blindness to the operand registers. -/
theorem operandsChangeOnlyByHostWrites : Obligations.OperandsChangeOnlyByHostWrites := by
  refine ⟨fun s t h hchange => ?_, fun s t hn h hchange => ?_, fun s v => ⟨rfl, rfl, rfl, rfl, rfl, rfl⟩,
    fun s t a b c h => (engineBlind_setOperands a b c).engineTurn rfl rfl rfl rfl h⟩
  · rcases writesReg_of_operand_changed h hchange with hreset | ⟨r, v, hr, hw⟩
    · exact .inl hreset
    · exact .inr (hw.operand_turn hr)
  · rcases writesReg_of_operand_changed h hchange with hreset | ⟨r, v, hr, hw⟩
    · simp [hn] at hreset
    · obtain ⟨x, hline⟩ := hw.line hn
      exact ⟨r, x, hline, hr⟩

/-- Settles O15: each command's step commutes with writing the copies it does not read. -/
theorem commandIgnoresUnlistedOperands : Obligations.CommandIgnoresUnlistedOperands := fun _ _ a b c =>
  ⟨(engineBlind_setLbLc b c).exec_isprime rfl, (engineBlind_setLc c).exec_gcd rfl rfl,
    (engineBlind_setLc c).exec_modinv rfl rfl, (engineBlind_setLatches a b c).exec_keygen⟩

/-- Settles O23, by what a step does to CMD and BUSY. -/
theorem cmdHoldsTheLastAcceptedWord : Obligations.CmdHoldsTheLastAcceptedWord := by
  refine ⟨fun s t h hchange => ?_, fun s t h hidle hbusy => ?_, fun s v hidle => ?_, fun s => rfl⟩
  · rcases step_command h with ⟨hn, -⟩ | ⟨hidle, v, -, ht⟩ | ⟨hkept, -⟩
    · exact .inl hn
    · exact .inr ⟨hidle, ht ▸ rfl⟩
    · exact absurd hkept hchange
  · rcases step_command h with ⟨-, hb⟩ | ⟨-, v, -, ht⟩ | ⟨-, hkept⟩
    · simp [hbusy] at hb
    · rw [ht]
      exact ⟨rfl, rfl, rfl, rfl⟩
    · simp [hkept hidle] at hbusy
  · simp [hostAccess, hostWrite, accessReg, nameAt, writeReg, commandWrite, hidle]

/-- Settles O24: a Host access goes by the host-visible registers only. -/
theorem hiddenStateIsInvisibleToTheHost : Obligations.HiddenStateIsInvisibleToTheHost := by
  intro s off a la lb lc kg e
  obtain ⟨hhost, hread⟩ := sameToHost_hostAccess_withHidden off a la lb lc kg e s
  exact ⟨hhost, hread, hostAccess_kg off a s⟩

end Sys2Proof.Machine
end

section
/-! PROOF. The family 20_memory.md: the register window's offsets, what a read and a write do at each of them (R52 to
R56), and the window's bytes (R58). -/

namespace Sys2Proof.Machine

/-! ## The offsets of the window (R50, R60) -/

/-- A register lies at a multiple of 8, up to 0x38. -/
theorem regOffset_legal (r : RegName) : regOffset r % 8 = 0 ∧ regOffset r ≤ 0x38 := by
  cases r <;> decide

/-- The legal offsets are those of the registers. -/
theorem exists_regOffset_iff {off : Nat} : (∃ r, regOffset r = off) ↔ off % 8 = 0 ∧ off ≤ 0x38 := by
  constructor
  · rintro ⟨r, rfl⟩
    exact regOffset_legal r
  · rintro ⟨h8, hle⟩
    obtain ⟨r, hr⟩ := Option.isSome_iff_exists.mp (nameAt_isSome h8 hle)
    exact ⟨r, regOffset_of_nameAt hr⟩

/-- The offsets that have a register are the legal ones. -/
theorem nameAt_isSome_iff {off : Nat} : (nameAt off).isSome ↔ off % 8 = 0 ∧ off ≤ 0x38 := by
  rw [← exists_regOffset_iff, Option.isSome_iff_exists]
  refine exists_congr fun r => ⟨regOffset_of_nameAt, ?_⟩
  rintro rfl
  exact nameAt_regOffset r

/-! ## A Host access, legal or not (R52, R53, R55) -/

/-- An 8-byte read at a register's offset answers with its value and changes only the Host's log. -/
theorem hostAccess_read_regOffset (r : RegName) (s : State) :
    hostAccess (regOffset r) (.read 8) s = s.responded (.data (regOffset r) (readReg r s)) := by
  simp only [hostAccess, hostRead, accessReg_regOffset]
  rfl

/-- An 8-byte write at a register's offset writes it, and the Host is told so. -/
theorem hostAccess_write_regOffset (r : RegName) (v : Word) (s : State) :
    hostAccess (regOffset r) (.write 8 v) s = (writeReg r v s).responded (.done (regOffset r)) := by
  simp only [hostAccess, hostWrite, accessReg_regOffset]
  rfl

section Illegal

variable {off size : Nat} (h : size ≠ 8 ∨ off % 8 ≠ 0 ∨ off > 0x38)
include h

/-- Any other read is a BusError. -/
theorem hostAccess_read_illegal (s : State) :
    hostAccess off (.read size) s = s.responded (.fault (.busError off)) := by
  simp only [hostAccess, hostRead, accessReg_eq_none.mpr h]
  rfl

/-- Any other write is a BusError. -/
theorem hostAccess_write_illegal (v : Word) (s : State) :
    hostAccess off (.write size v) s = s.responded (.fault (.busError off)) := by
  simp only [hostAccess, hostWrite, accessReg_eq_none.mpr h]
  rfl

end Illegal

/-! ## The Host's log (R56) -/

/-- A response is put before the Host's log. -/
theorem responded_log (p : Response) (s : State) : (s.responded p).host.log = p :: s.host.log := rfl

/-- A response is nothing to the block. -/
theorem sameBlock_responded (p : Response) (s : State) : s.SameBlock (s.responded p) :=
  ⟨rfl, rfl, rfl, rfl, rfl, rfl, rfl, rfl, rfl, rfl, rfl, rfl, rfl⟩

/-- Every step keeps the Host's log, with what is new before it, and the Host's program. -/
theorem step_hostGrows {s t : State} (h : step s = .next t) : HostGrows s t := by
  rcases step_cases h with ⟨-, rfl⟩ | ⟨-, he⟩ | ⟨-, -, -, hgrows, -⟩ | ⟨-, -, hgrows, -⟩
  · exact HostGrows.refl s
  · obtain ⟨-, -, -, -, -, -, -, -, -, hhost⟩ := engineTurn_frame he
    exact ⟨⟨[], congrArg HostCtx.log hhost⟩, congrArg HostCtx.program hhost⟩
  · exact hgrows
  · exact hgrows

/-- A response once received stays in the Host's log. -/
theorem HostGrows.mem_log {s t : State} (h : HostGrows s t) {p : Response} (hp : p ∈ s.host.log) :
    p ∈ t.host.log := by
  obtain ⟨⟨new, hlog⟩, -⟩ := h
  exact hlog ▸ List.mem_append_right new hp

/-! ## The window's bytes (R58) -/

/-- Byte k of a register lies k bytes above its offset. -/
theorem windowByte_regOffset_add (r : RegName) {k : Nat} (hk : k < 8) (s : State) :
    windowByte (regOffset r + k) s = some (byteOfWord (readReg r s) k) := by
  obtain ⟨h8, -⟩ := regOffset_legal r
  have hoff : (regOffset r + k) / 8 * 8 = regOffset r := by omega
  have hbyte : (regOffset r + k) % 8 = k := by omega
  simp only [windowByte, hoff, hbyte, nameAt_regOffset, Option.map_some]

/-- The window has 64 bytes (R50). -/
theorem windowByte_isSome_iff {off : Nat} (s : State) : (windowByte off s).isSome ↔ off ≤ 0x3F := by
  rw [windowByte, Option.isSome_map, nameAt_isSome_iff]
  omega

/-! ## The obligations -/

/-- Settles O17: an illegal read is a BusError, and a legal one is at the offset of a register. -/
theorem hostReadReturnsTheRegister : Obligations.HostReadReturnsTheRegister := by
  refine fun s off size => ⟨fun h => hostAccess_read_illegal h s, ?_⟩
  rintro ⟨rfl, hlegal⟩
  obtain ⟨r, rfl⟩ := exists_regOffset_iff.mpr hlegal
  refine ⟨readReg r s, hostAccess_read_regOffset r s, ?_⟩
  cases r <;> simp [regOffset, readReg]

/-- Settles O18: an illegal write is a BusError, and a legal one is what a write to its register can be. -/
theorem hostWriteReachesOnlyItsRegister : Obligations.HostWriteReachesOnlyItsRegister := by
  refine fun s off size v => ⟨fun h => hostAccess_write_illegal h v s, ?_⟩
  rintro ⟨rfl, hlegal⟩
  obtain ⟨r, rfl⟩ := exists_regOffset_iff.mpr hlegal
  refine ⟨writeReg r v s, hostAccess_write_regOffset r v s, ?_⟩
  rcases writeReg_cases r v s with
    ⟨rfl, e⟩ | ⟨rfl, e⟩ | ⟨rfl, e⟩ | ⟨rfl, hbusy, e⟩ | ⟨rfl, hidle, e⟩ | ⟨rfl | rfl | rfl | rfl, e⟩ <;> rw [e]
  · simp [regOffset]
  · simp [regOffset]
  · simp [regOffset]
  · simp [regOffset, hbusy, overrun, Status.overrun]
  · simp [regOffset, hidle, accept, Status.accept]
  all_goals simp [regOffset]

/-- Settles O19: an illegal access only puts its BusError in the Host's log, and the log only grows. -/
theorem busErrorIsRecordedAndHarmless : Obligations.BusErrorIsRecordedAndHarmless := by
  refine ⟨fun s off size v h => ?_, fun s t off hstep hlogged => (step_hostGrows hstep).mem_log hlogged⟩
  rw [hostAccess_read_illegal h, hostAccess_write_illegal h]
  exact ⟨responded_log _ s, responded_log _ s, sameBlock_responded _ s, sameBlock_responded _ s⟩

/-- Settles O21: an offset of the window is a register's offset and a byte's number. -/
theorem windowBytesAreLittleEndian : Obligations.WindowBytesAreLittleEndian :=
  ⟨fun s r _ hk => windowByte_regOffset_add r hk s, fun s _ => windowByte_isSome_iff s⟩

end Sys2Proof.Machine
end

section
/-! PROOF. The decoder of the family 30_encoding.md: which words are commands (R72 to R74) and which bytes (R58). -/

namespace Sys2Proof

/-! ## The two fields of a command word (R70) -/

theorem zeroExtend_eq_append (op : BitVec 4) : op.zeroExtend 64 = 0#60 ++ op :=
  BitVec.setWidth_eq_append (by decide)

@[simp] theorem opcodeField_zeroExtend (op : BitVec 4) : opcodeField (op.zeroExtend 64) = op := by
  rw [zeroExtend_eq_append]
  exact BitVec.extractLsb'_append_eq_right

@[simp] theorem reservedField_zeroExtend (op : BitVec 4) : reservedField (op.zeroExtend 64) = 0 := by
  rw [zeroExtend_eq_append]
  exact BitVec.extractLsb'_append_eq_left

/-- A word whose reserved field is 0 is zext_64 of its OPCODE field. -/
theorem eq_zeroExtend_of_reserved {w : Word} (h : reservedField w = 0) : w = (opcodeField w).zeroExtend 64 :=
  calc w = reservedField w ++ opcodeField w := (BitVec.extractLsb'_append_extractLsb' (w := 60) (len := 4)).symm
    _ = 0#60 ++ opcodeField w := by rw [h]; rfl
    _ = (opcodeField w).zeroExtend 64 := (zeroExtend_eq_append _).symm

/-- A word has a reserved bit set, or is zext_64 of an OPCODE. -/
theorem word_cases (w : Word) : reservedField w ≠ 0 ∨ ∃ op : BitVec 4, w = op.zeroExtend 64 :=
  (ne_or_eq _ _).imp_right fun h => ⟨_, eq_zeroExtend_of_reserved h⟩

/-! ## What a word decodes to (R72, R74) -/

theorem decode_of_reserved {w : Word} (h : reservedField w ≠ 0) : decode w = .reject .reservedBits := if_pos h

/-- Of the sixteen words without reserved bits, a command's is zext_64 of its OPCODE. -/
theorem decode_zeroExtend_eq_instr_iff (op : BitVec 4) (i : Instr) :
    decode (op.zeroExtend 64) = .instr i ↔ op = opcode i := by
  revert op
  cases i <;> decide

/-- Of the sixteen words without reserved bits, those with OPCODE 0x0 or 0x6 to 0xF are no command. -/
theorem decode_zeroExtend_eq_reject_iff (op : BitVec 4) (r : DecodeReject) :
    decode (op.zeroExtend 64) = .reject r ↔ r = .illegalOpcode ∧ (op = 0x0 ∨ 0x6 ≤ op) := by
  revert op
  cases r <;> decide

/-- A word decodes to a command exactly when its fields are the command's OPCODE and 0. -/
theorem decode_eq_instr_iff (w : Word) (i : Instr) :
    decode w = .instr i ↔ opcodeField w = opcode i ∧ reservedField w = 0 := by
  rcases word_cases w with hres | ⟨op, rfl⟩
  · exact iff_of_false (by simp [decode_of_reserved hres]) fun h => hres h.2
  · rw [decode_zeroExtend_eq_instr_iff, opcodeField_zeroExtend, reservedField_zeroExtend, eq_self, and_true]

/-- A word decodes to a command exactly when it is the command's encoding. -/
theorem decode_eq_instr_iff_eq_encode (w : Word) (i : Instr) : decode w = .instr i ↔ w = encode i := by
  rw [decode_eq_instr_iff]
  constructor
  · rintro ⟨hop, hres⟩
    rw [eq_zeroExtend_of_reserved hres, hop, encode]
  · rintro rfl
    exact ⟨opcodeField_zeroExtend _, reservedField_zeroExtend _⟩

/-- The words that are no command. -/
theorem decode_rejects_iff (w : Word) :
    (∃ r, decode w = .reject r) ↔ reservedField w ≠ 0 ∨ opcodeField w = 0x0 ∨ 0x6 ≤ opcodeField w := by
  rcases word_cases w with hres | ⟨op, rfl⟩
  · exact ⟨fun _ => .inl hres, fun _ => ⟨_, decode_of_reserved hres⟩⟩
  · simp only [decode_zeroExtend_eq_reject_iff, exists_eq_left, opcodeField_zeroExtend, reservedField_zeroExtend,
      ne_eq, not_true_eq_false, false_or]

/-! ## The bytes of a word (R58) -/

/-- The number of bytes is the library's number of base-256 digits. -/
theorem natOfBytes_eq_ofDigits (bs : List Byte) : natOfBytes bs = Nat.ofDigits 256 (bs.map BitVec.toNat) := by
  induction bs with
  | nil => rfl
  | cons b bs ih => rw [natOfBytes, ih, List.map_cons, Nat.ofDigits_cons]

/-- Bytes are base-256 digits. -/
theorem toNat_lt_of_mem_bytes (bs : List Byte) : ∀ n ∈ bs.map BitVec.toNat, n < 256 := by
  intro n hn
  obtain ⟨b, -, rfl⟩ := List.mem_map.mp hn
  exact b.isLt

theorem natOfBytes_lt (bs : List Byte) : natOfBytes bs < 256 ^ bs.length := by
  have hlt := Nat.ofDigits_lt_base_pow_length (by decide) (toNat_lt_of_mem_bytes bs)
  rwa [List.length_map, ← natOfBytes_eq_ofDigits] at hlt

/-- Equally many bytes with the same number are the same bytes. -/
theorem natOfBytes_injective {as bs : List Byte} (hlen : as.length = bs.length)
    (h : natOfBytes as = natOfBytes bs) : as = bs := by
  rw [natOfBytes_eq_ofDigits, natOfBytes_eq_ofDigits] at h
  have hdigits := Nat.ofDigits_inj_of_len_eq (by decide) (by simpa using hlen) (toNat_lt_of_mem_bytes as)
    (toNat_lt_of_mem_bytes bs) h
  exact List.map_injective_iff.mpr (fun _ _ => BitVec.eq_of_toNat_eq) hdigits

theorem toNat_byteOfWord (w : Word) (k : Nat) : (byteOfWord w k).toNat = w.toNat / 256 ^ k % 256 := by
  rw [byteOfWord, BitVec.extractLsb'_toNat, Nat.shiftRight_eq_div_pow, pow_mul]
  rfl

/-- The lowest `n` bytes of a word hold its number modulo 256 ^ n. -/
theorem natOfBytes_range_byteOfWord (w : Word) (n : Nat) :
    natOfBytes ((List.range n).map (byteOfWord w)) = w.toNat % 256 ^ n := by
  rw [natOfBytes_eq_ofDigits]
  induction n with
  | zero => simp [Nat.mod_one]
  | succ n ih =>
    rw [List.range_succ, List.map_append, List.map_append, Nat.ofDigits_append, ih, List.length_map, List.length_map,
      List.length_range, pow_succ, Nat.mod_mul, ← toNat_byteOfWord]
    simp

theorem length_bytesOfWord (w : Word) : (bytesOfWord w).length = 8 := by simp [bytesOfWord]

theorem natOfBytes_bytesOfWord (w : Word) : natOfBytes (bytesOfWord w) = w.toNat :=
  (natOfBytes_range_byteOfWord w 8).trans (Nat.mod_eq_of_lt w.isLt)

/-- Eight bytes make up a word exactly when they are its bytes. -/
theorem ofNat_natOfBytes_eq_iff {bs : List Byte} (hlen : bs.length = 8) (w : Word) :
    BitVec.ofNat 64 (natOfBytes bs) = w ↔ bs = bytesOfWord w := by
  constructor
  · rintro rfl
    have hlt : natOfBytes bs < 2 ^ 64 := (natOfBytes_lt bs).trans_eq (by rw [hlen]; rfl)
    refine natOfBytes_injective (hlen.trans (length_bytesOfWord _).symm) ?_
    rw [natOfBytes_bytesOfWord, BitVec.toNat_ofNat, Nat.mod_eq_of_lt hlt]
  · rintro rfl
    rw [natOfBytes_bytesOfWord, BitVec.ofNat_toNat, BitVec.setWidth_eq]

/-! ## What bytes decode to -/

/-- Bytes decode to a command exactly when there are eight of them whose word does, and what follows is left. -/
theorem decodeBytes_eq_instr_iff (bs rest : List Byte) (i : Instr) :
    decodeBytes bs = (.instr i, rest) ↔
      8 ≤ bs.length ∧ decode (BitVec.ofNat 64 (natOfBytes (bs.take 8))) = .instr i ∧ bs.drop 8 = rest := by
  unfold decodeBytes
  split
  next hshort => simp [hshort]
  next hlong => simp [not_lt.mp hlong]

/-- Bytes begin with eight given ones exactly when they are long enough and these are what is taken. -/
theorem eq_append_iff_take_drop {bs front rest : List Byte} (hfront : front.length = 8) :
    bs = front ++ rest ↔ 8 ≤ bs.length ∧ bs.take 8 = front ∧ bs.drop 8 = rest := by
  constructor
  · rintro rfl
    exact ⟨by simp [hfront], List.take_left' hfront, List.drop_left' hfront⟩
  · rintro ⟨-, rfl, rfl⟩
    exact (List.take_append_drop 8 bs).symm

/-! ## The obligations -/

/-- Settles O3: eight bytes are a word's exactly when the word is theirs, and a word is a command's exactly when it is
the command's encoding. -/
theorem bytesDecodeExactlyWhenEncoded : Obligations.BytesDecodeExactlyWhenEncoded := by
  intro bs rest i
  rw [decodeBytes_eq_instr_iff, encodeBytes, eq_append_iff_take_drop (length_bytesOfWord _)]
  refine and_congr_right fun hlong => and_congr_left' ?_
  rw [decode_eq_instr_iff_eq_encode, ofNat_natOfBytes_eq_iff (List.length_take_of_le hlong)]

/-- Settles O2: each mnemonic by its fields and by its whole word, and the words left over. -/
theorem wordSelectsMnemonicExactly : Obligations.WordSelectsMnemonicExactly := by
  intro w
  have hfields := decode_eq_instr_iff w
  have hword := decode_eq_instr_iff_eq_encode w
  exact ⟨hfields .isprime, hfields .gcd, hfields .modinv, hfields .keygen, hfields .modexp,
    hword .isprime, hword .gcd, hword .modinv, hword .keygen, hword .modexp, decode_rejects_iff w⟩

/-- Settles O1: ten literal words. -/
theorem decodeGivesTheTableRows : Obligations.DecodeGivesTheTableRows := by
  unfold Obligations.DecodeGivesTheTableRows
  decide

end Sys2Proof
end

section
/-! PROOF. The family 30_encoding.md: illegal command words (R74, R210), the lines of a host program (R76), WAIT (R77)
and the encoding of the pseudo-operations (R78). -/

namespace Sys2Proof.Machine

/-! ## Illegal command words (R74, R210) -/

/-- ENG_OP of a word is ILLEGAL exactly when the word is no command (R73). -/
theorem EngOp.ofWord_eq_illegal_iff (w : Word) : EngOp.ofWord w = .illegal ↔ ∃ r, decode w = .reject r := by
  unfold EngOp.ofWord
  split <;> simp [*]

/-- While BUSY = 0 a write to CMD accepts the word, whatever it is. -/
theorem writeReg_cmd_of_idle {s : State} (h : s.status.busy = false) (w : Word) : writeReg .cmd w s = accept w s := by
  simp [writeReg, commandWrite, h]

/-- The Engine's turn on an illegal word completes it. -/
theorem engineTurn_of_illegal {s : State} (h : s.engOp = .illegal) : engineTurn s = .next (s.completed 2) := by
  rw [engineTurn, h]
  rfl

/-! ## Host variables -/

theorem readVar_setVar_self (x : Nat) (v : Word) (s : State) : (setVar x v s).host.readVar x = v := by
  simp only [HostCtx.readVar, setVar_host, lookup_setVarList_self]

theorem readVar_setVar_other {x y : Nat} (h : y ≠ x) (v : Word) (s : State) :
    (setVar x v s).host.readVar y = s.host.readVar y := by
  simp only [HostCtx.readVar, setVar_host, lookup_setVarList_other h]

/-! ## The lines of a host program (R76) -/

/-- The Host's turn runs the line it is at. -/
theorem hostLineTurn_of_line {s : State} {ln : HostLine} (h : s.host.program[s.host.pc]? = some ln) :
    hostLineTurn s = execHostLine ln s := by
  rw [hostLineTurn, h]

/-- A WR line is an 8-byte write of its value. -/
theorem execHostLine_wr {s : State} {v : Value} {w : Word} (hv : Value.eval s.host v = some w) (r : RegName) :
    execHostLine (.wr r v) s = .next (gotoLine (s.host.pc + 1) (hostAccess (regOffset r) (.write 8 w) s)) := by
  have hhost : (hostWrite (regOffset r) 8 w s).host.pc = s.host.pc := by
    obtain ⟨-, -, -, -, -, -, -, -, hhost⟩ := writeReg_frame r w s
    simp [hostWrite, hhost]
  rw [execHostLine, hv]
  simp only [nextLine, hhost, hostAccess]

theorem Value.eval_lit {n : Nat} (h : n < 2 ^ 64) (c : HostCtx) : Value.eval c (.lit n) = some (BitVec.ofNat 64 n) :=
  if_pos h

/-- The state after an RD line: the Host has the register's value in its log and in the variable. -/
def rdDone (x : Nat) (r : RegName) (s : State) : State :=
  gotoLine (s.host.pc + 1) (setVar x (readReg r s) (s.responded (.data (regOffset r) (readReg r s))))

theorem execHostLine_rd (x : Nat) (r : RegName) (s : State) : execHostLine (.rd x r) s = .next (rdDone x r s) := by
  have hread : hostRead (regOffset r) 8 s = s.responded (.data (regOffset r) (readReg r s)) :=
    hostAccess_read_regOffset r s
  rw [execHostLine, hread]
  rfl

theorem sameBlock_rdDone (x : Nat) (r : RegName) (s : State) : s.SameBlock (rdDone x r s) :=
  ⟨rfl, rfl, rfl, rfl, rfl, rfl, rfl, rfl, rfl, rfl, rfl, rfl, rfl⟩

theorem readVar_rdDone_self (x : Nat) (r : RegName) (s : State) : (rdDone x r s).host.readVar x = readReg r s :=
  readVar_setVar_self x _ _

theorem readVar_rdDone_other {x y : Nat} (h : y ≠ x) (r : RegName) (s : State) :
    (rdDone x r s).host.readVar y = s.host.readVar y :=
  readVar_setVar_other h _ _

/-- A branch whose mask and label R76 allows goes by the masked variable. -/
theorem hostBranch_of_label {s : State} {mask l pc : Nat} (hmask : mask < 2 ^ 64)
    (hl : labelLine s.host.program l = some pc) (P : Word → Prop) [DecidablePred P] (x : Nat) :
    hostBranch (fun v => decide (P v)) x mask l s =
      .next (gotoLine (if P (s.host.readVar x &&& BitVec.ofNat 64 mask) then pc else s.host.pc + 1) s) := by
  rw [hostBranch, hl]
  simp only [if_pos hmask]
  by_cases hP : P (s.host.readVar x &&& BitVec.ofNat 64 mask) <;> simp [toWord, nextLine, hP]

section Branch

variable {s : State} {x mask l pc : Nat} (hmask : mask < 2 ^ 64) (hl : labelLine s.host.program l = some pc)
include hmask hl

theorem hostLineTurn_bnz (hln : s.host.program[s.host.pc]? = some (.bnz x mask l)) :
    hostLineTurn s =
      .next (gotoLine (if s.host.readVar x &&& BitVec.ofNat 64 mask ≠ 0 then pc else s.host.pc + 1) s) :=
  (hostLineTurn_of_line hln).trans (hostBranch_of_label hmask hl (· ≠ 0) x)

theorem hostLineTurn_bz (hln : s.host.program[s.host.pc]? = some (.bz x mask l)) :
    hostLineTurn s =
      .next (gotoLine (if s.host.readVar x &&& BitVec.ofNat 64 mask = 0 then pc else s.host.pc + 1) s) :=
  (hostLineTurn_of_line hln).trans (hostBranch_of_label hmask hl (· = 0) x)

end Branch

/-! ## WAIT (R77) -/

/-- A label that no line of `pre` defines is found right after `pre`. -/
theorem labelLine_of_fresh {pre : List HostLine} {l : Nat} (hfresh : l ∉ hostLabels pre) (post : List HostLine) :
    labelLine (pre ++ .label l :: post) l = some pre.length := by
  have hpre : ∀ ln ∈ pre, ln ≠ .label l := by
    rintro ln hmem rfl
    exact hfresh (List.mem_filterMap.mpr ⟨_, hmem, rfl⟩)
  rw [labelLine, List.findIdx?_append, List.findIdx?_eq_none_iff.mpr (by simpa using hpre), List.findIdx?_cons]
  simp

/-- BUSY is what STATUS masked with 0x1 shows. -/
theorem Status.word_and_one_ne_zero_iff (st : Status) : st.word &&& BitVec.ofNat 64 0x1 ≠ 0 ↔ st.busy = true := by
  have hbit : st.word.getLsbD 0 = st.busy := st.getLsbD_word 0
  rw [BitVec.and_one_eq_setWidth_ofBool_getLsbD, hbit]
  cases st.busy <;> decide

/-! ## The pseudo-operations as bus transactions (R78) -/

theorem transactions_wr_lit {n : Nat} (hn : n < 2 ^ 64) (h : HostCtx) (r : RegName) (ls : List HostLine) :
    transactions h (.wr r (.lit n) :: ls) = (regOffset r, .write 8 (BitVec.ofNat 64 n)) :: transactions h ls :=
  List.filterMap_cons_some (by rw [HostLine.transaction, Value.eval_lit hn, Option.map_some])

theorem transactions_waitLines (h : HostCtx) (lw x : Nat) : transactions h (waitLines lw x) = [(0x08, .read 8)] := rfl

/-- A command is started by a write of its word to CMD, and awaited by reads of STATUS. -/
theorem transactions_startAndWait (h : HostCtx) (i : Instr) (lw x : Nat) :
    transactions h (startAndWait i lw x) = [(0x00, .write 8 (encode i)), (0x08, .read 8)] := by
  rw [startAndWait, cmdLine, transactions_wr_lit (encode i).isLt, transactions_waitLines, BitVec.ofNat_toNat,
    BitVec.setWidth_eq]
  rfl

/-! ## The obligations -/

/-- Settles O8: an illegal word is one that no decoding accepts; acceptance does not look at it. -/
theorem illegalWordCompletesWithIllegalCmd : Obligations.IllegalWordCompletesWithIllegalCmd := by
  refine fun w => ⟨(EngOp.ofWord_eq_illegal_iff w).trans (decode_rejects_iff w), fun s hidle => ?_,
    fun s he => engineTurn_of_illegal he⟩
  have hwrite : hostAccess 0x00 (.write 8 w) s = (accept w s).responded (.done 0x00) :=
    writeReg_cmd_of_idle hidle w ▸ hostAccess_write_regOffset .cmd w s
  rw [hwrite]
  exact ⟨rfl, rfl, rfl⟩

/-- Settles O47, line by line. -/
theorem hostLinesMeanTheirTransactions : Obligations.HostLinesMeanTheirTransactions := by
  refine ⟨fun s r n hln hn => ?_, fun s r x hln => ?_, fun s r x hln => ?_, fun s x mask l pc hmask hl => ?_,
    fun s l hln => hostLineTurn_of_line hln, fun s hln => hostLineTurn_of_line hln⟩
  · exact (hostLineTurn_of_line hln).trans (execHostLine_wr (Value.eval_lit hn _) r)
  · exact (hostLineTurn_of_line hln).trans (execHostLine_wr rfl r)
  · exact ⟨rdDone x r s, (hostLineTurn_of_line hln).trans (execHostLine_rd x r s), readVar_rdDone_self x r s, rfl,
      sameBlock_rdDone x r s, fun y hy => readVar_rdDone_other hy r s⟩
  · exact ⟨hostLineTurn_bnz hmask hl, hostLineTurn_bz hmask hl⟩

/-- Settles O48: the RD line puts STATUS in the variable, and the BNZ line goes by its bit 0, BUSY. -/
theorem waitPollsUntilNotBusy : Obligations.WaitPollsUntilNotBusy := by
  intro s pre post lw x hprog hfresh hpc
  replace hprog : s.host.program = pre ++ .label lw :: .rd x .status :: .bnz x 0x1 lw :: post := by
    simpa [waitLines] using hprog
  have hrd : s.host.program[s.host.pc]? = some (.rd x .status) := by simp [hprog, hpc]
  have hbnz : s.host.program[s.host.pc + 1]? = some (.bnz x 0x1 lw) := by simp [hprog, hpc, Nat.add_assoc]
  have hlabel : labelLine s.host.program lw = some pre.length := hprog ▸ labelLine_of_fresh hfresh _
  refine ⟨rdDone x .status s, _, (hostLineTurn_of_line hrd).trans (execHostLine_rd x .status s),
    hostLineTurn_bnz (s := rdDone x .status s) (by decide) hlabel hbnz,
    sameBlock_rdDone x .status s, readVar_rdDone_self x .status s, ?_⟩
  have hnext : (rdDone x .status s).host.pc + 1 = pre.length + 3 := congrArg (· + 2) hpc
  rw [readVar_rdDone_self, hnext]
  exact if_congr s.status.word_and_one_ne_zero_iff rfl rfl

/-- Settles O49: the operand writes one by one, then the command's word and the STATUS read. -/
theorem pseudoOperationsEncode : Obligations.PseudoOperationsEncode := by
  intro h a b c lw x ha hb hc
  refine ⟨rfl, rfl, ?_, ?_, ?_, rfl, ?_⟩
  · rw [runIsprime, transactions_wr_lit ha, transactions_startAndWait]
    rfl
  · rw [runGcd, transactions_wr_lit ha, transactions_wr_lit hb, transactions_startAndWait]
    rfl
  · rw [runModinv, transactions_wr_lit ha, transactions_wr_lit hb, transactions_startAndWait]
    rfl
  · rw [runModexp, transactions_wr_lit ha, transactions_wr_lit hb, transactions_wr_lit hc, transactions_startAndWait]
    rfl

end Sys2Proof.Machine
end

section
/-! PROOF. The family 40_primality.md: what ISPRIME answers (R100 to R103). -/

namespace Sys2Proof.Machine

/-- The tester's verdict, as the word that RES0 takes. -/
theorem boolWord_isPrime (n : Nat) : boolWord (isPrime n) = if Nat.Prime n then 1 else 0 :=
  if_congr (isPrime_iff n) rfl rfl

/-- ISPRIME writes the tester's verdict on LA to RES0 and completes with NONE (R100). -/
theorem exec_isprime (s : State) :
    exec .isprime s = .next (({ s with res0 := boolWord (isPrime s.la.toNat) } : State).completed 0) := rfl

/-! ## The obligation -/

/-- Settles O27: the verdict that ISPRIME writes is right, as trial division decides primality. -/
theorem isprimeDecidesPrimality : Obligations.IsprimeDecidesPrimality := by
  intro s
  rw [exec_isprime, boolWord_isPrime]

end Sys2Proof.Machine
end

section
/-! PROOF. The family 41_kernel.md: the Euclidean loop computes the greatest common divisor (R110 to R113), the extended
loop a modular inverse (R120 to R125), and KEYGEN meets no operands without one (R127). -/

namespace Sys2Proof.Machine

/-! ## The GCD unit -/

/-- One round of the Euclidean algorithm keeps the greatest common divisor (R113). -/
theorem gcd_eq_gcd_mod (a b : Nat) : Nat.gcd a b = Nat.gcd b (a % b) := by
  rw [Nat.gcd_comm a, Nat.gcd_rec, Nat.gcd_comm]

/-- `b` iterations are enough, as `b` strictly decreases. -/
theorem gcdLoop_eq_gcd {fuel a b : Nat} (h : b ≤ fuel) : gcdLoop fuel a b = Nat.gcd a b := by
  induction fuel generalizing a b with
  | zero =>
    obtain rfl : b = 0 := by omega
    exact (Nat.gcd_zero_right a).symm
  | succ fuel ih =>
    rw [gcdLoop]
    split
    · next hb => rw [hb, Nat.gcd_zero_right]
    · next hb =>
      have hlt : a % b < b := Nat.mod_lt a (Nat.pos_of_ne_zero hb)
      calc gcdLoop fuel b (a % b) = Nat.gcd b (a % b) := ih (by omega)
        _ = Nat.gcd a b := (gcd_eq_gcd_mod a b).symm

theorem euclidGcd_eq_gcd (a b : Nat) : euclidGcd a b = Nat.gcd a b := gcdLoop_eq_gcd le_rfl

/-- The greatest common divisor of two words fits a word (R113). -/
theorem gcd_toNat_lt (a b : Word) : Nat.gcd a.toNat b.toNat < 2 ^ 64 := by
  rcases Nat.eq_zero_or_pos a.toNat with ha | ha
  · rw [ha, Nat.gcd_zero_left]
    exact b.isLt
  · exact (Nat.gcd_le_left _ ha).trans_lt a.isLt

/-- GCD writes the Euclidean loop's answer to RES0 and completes with NONE (R110). -/
theorem exec_gcd (s : State) :
    exec .gcd s = .next (({ s with res0 := toWord (euclidGcd s.la.toNat s.lb.toNat) } : State).completed 0) := rfl

/-! ## The modular-inverse engine -/

/-- What the extended loop keeps for the operands `e` and `phi`: the remainders are not negative and have the operands'
greatest common divisor, and each remainder is its coefficient's multiple of `e` modulo `phi`. -/
structure Chains.Tracks (e phi : Nat) (c : Chains) : Prop where
  oldR_nonneg : 0 ≤ c.oldR
  r_nonneg : 0 ≤ c.r
  gcd_eq : Int.gcd c.oldR c.r = Nat.gcd e phi
  oldR_modEq : e * c.oldT ≡ c.oldR [ZMOD phi]
  r_modEq : e * c.t ≡ c.r [ZMOD phi]

theorem Chains.next_r (c : Chains) : c.next.r = c.oldR % c.r := by
  rw [Int.emod_def, mul_comm]
  rfl

theorem Chains.seed_tracks (e phi : Nat) : (Chains.seed e phi).Tracks e phi where
  oldR_nonneg := Int.natCast_nonneg phi
  r_nonneg := Int.natCast_nonneg e
  gcd_eq := Nat.gcd_comm phi e
  oldR_modEq := by simp [seed, Int.ModEq]
  r_modEq := by simp [seed, Int.ModEq]

/-- One iteration: the quotient's multiple is subtracted from both chains, so each remainder stays its coefficient's
multiple of `e`. -/
theorem Chains.Tracks.next {e phi : Nat} {c : Chains} (h : c.Tracks e phi) (hr : 0 < c.r) : c.next.Tracks e phi where
  oldR_nonneg := h.r_nonneg
  r_nonneg := by
    rw [next_r]
    exact Int.emod_nonneg _ hr.ne'
  gcd_eq := by
    rw [next_r, ← h.gcd_eq]
    exact (Int.gcd_comm ..).trans (Int.gcd_emod ..)
  oldR_modEq := h.r_modEq
  r_modEq := by
    have hsub := h.oldR_modEq.sub (h.r_modEq.mul_left (c.oldR / c.r))
    rwa [mul_left_comm, ← mul_sub] at hsub

theorem Chains.Tracks.euclidLoop {e phi : Nat} {c : Chains} (h : c.Tracks e phi) (fuel : Nat) :
    (euclidLoop fuel c).Tracks e phi := by
  induction fuel generalizing c with
  | zero => exact h
  | succ fuel ih =>
    rw [Machine.euclidLoop]
    split
    · next hr => exact ih (h.next hr)
    · exact h

/-- `r` iterations are enough, as `r` strictly decreases. -/
theorem euclidLoop_r_eq_zero {fuel : Nat} {c : Chains} (h0 : 0 ≤ c.r) (hle : c.r ≤ fuel) :
    (euclidLoop fuel c).r = 0 := by
  induction fuel generalizing c with
  | zero => exact le_antisymm hle h0
  | succ fuel ih =>
    rw [euclidLoop]
    split
    · next hr =>
      have hlt : c.next.r < c.r := c.next_r ▸ Int.emod_lt_of_pos _ hr
      have hnonneg : 0 ≤ c.next.r := c.next_r ▸ Int.emod_nonneg _ hr.ne'
      exact ih hnonneg (by omega)
    · omega

/-- The extended loop ends with the greatest common divisor in `oldR` (R122), the multiple of `e` modulo `phi` whose
coefficient is `oldT` (R124). -/
theorem euclidLoop_seed (e phi : Nat) :
    (euclidLoop e (Chains.seed e phi)).oldR = Nat.gcd e phi ∧
    e * (euclidLoop e (Chains.seed e phi)).oldT ≡ Nat.gcd e phi [ZMOD phi] := by
  have h := (Chains.seed_tracks e phi).euclidLoop e
  have hr : (euclidLoop e (Chains.seed e phi)).r = 0 := euclidLoop_r_eq_zero (Int.natCast_nonneg e) le_rfl
  have hgcd : (euclidLoop e (Chains.seed e phi)).oldR = Nat.gcd e phi := by
    rw [← h.gcd_eq, hr, Int.gcd_zero_right, Int.natAbs_of_nonneg h.oldR_nonneg]
  exact ⟨hgcd, hgcd ▸ h.oldR_modEq⟩

theorem natCast_normaliseInverse (t : Int) {phi : Nat} (hphi : phi ≠ 0) : (normaliseInverse t phi : Int) = t % phi := by
  have hadd : (if t < 0 then t + phi else t) % (phi : Int) = t % phi := by
    split
    · exact Int.add_emod_right ..
    · rfl
  rw [normaliseInverse, hadd, Int.toNat_of_nonneg (Int.emod_nonneg t (Int.natCast_ne_zero.mpr hphi))]

/-- A coefficient whose multiple of `e` is 1 modulo `phi` normalises to the inverse (R125). -/
theorem isInverse_normaliseInverse {e phi : Nat} {t : Int} (hphi : phi ≠ 0) (h : e * t ≡ 1 [ZMOD phi]) :
    IsInverse (normaliseInverse t phi) e phi := by
  have hcast := natCast_normaliseInverse t hphi
  constructor
  · have hlt : t % (phi : Int) < phi := Int.emod_lt_of_pos t (Int.natCast_pos.mpr (Nat.pos_of_ne_zero hphi))
    omega
  · have hmod : e * (t % phi) ≡ 1 [ZMOD phi] := ((Int.mod_modEq t phi).mul_left e).trans h
    rw [← hcast] at hmod
    exact Int.natCast_modEq_iff.mp (by exact_mod_cast hmod)

/-- R122 and R123: without an inverse the engine reports so. -/
theorem modInverse_eq_none {e phi : Nat} (h : phi = 0 ∨ 1 < Nat.gcd e phi) : modInverse e phi = none := by
  obtain ⟨hgcd, -⟩ := euclidLoop_seed e phi
  rw [modInverse]
  rcases h with h | h
  · exact if_pos h
  · have : (euclidLoop e (Chains.seed e phi)).oldR > 1 := by omega
    simp [this]

/-- R125: on coprime operands the engine gives the inverse in [0, phi). -/
theorem exists_modInverse_eq_some {e phi : Nat} (hphi : phi ≠ 0) (h : Nat.gcd e phi = 1) :
    ∃ d, IsInverse d e phi ∧ modInverse e phi = some d := by
  obtain ⟨hgcd, hmod⟩ := euclidLoop_seed e phi
  rw [h, Nat.cast_one] at hgcd hmod
  exact ⟨_, isInverse_normaliseInverse hphi hmod, by simp [modInverse, hphi, hgcd]⟩

/-- MODINV completes with the engine's answer on LA and LB (R121). -/
theorem exec_modinv (s : State) :
    exec .modinv s = .next (completeInverse (modInverse s.la.toNat s.lb.toNat) s) := rfl

/-! ## ERRCODE after an Engine step of KEYGEN -/

theorem reject_errcode (cap : Config.RetryCap) (s : State) :
    (reject cap s).status.errcode = s.status.errcode ∨ (reject cap s).status.errcode = 4 := by
  rcases reject_completed cap s with ⟨r, h⟩ | h
  · exact .inl (by rw [h])
  · exact .inr (by rw [h]; rfl)

/-- An exponent that phase E accepts has an inverse modulo KG_PHI: it is coprime to KG_PHI, which is not 0 as it bounds
a draw of at least 1 (R127). -/
theorem exists_modInverse_of_draw {kg : KgRegs} {v : Nat} (hphase : kg.phase = .E) (hrange : inRange kg v = true)
    (hgcd : euclidGcd kg.phi v = 1) : ∃ d, IsInverse d v kg.phi ∧ modInverse v kg.phi = some d := by
  have hbounds : 1 ≤ v ∧ v ≤ kg.phi := by simpa [inRange, samplingRange, hphase] using hrange
  refine exists_modInverse_eq_some (by omega) ?_
  rw [Nat.gcd_comm, ← euclidGcd_eq_gcd, hgcd]

/-- A KEYGEN step keeps ERRCODE, succeeds, or exhausts the cap; it never reports NON_INVERTIBLE (R136). -/
theorem kgStep_errcode (cap : Config.RetryCap) (v : Nat) (s : State) :
    (kgStep cap v s).status.errcode = s.status.errcode ∨ (kgStep cap v s).status.errcode = 0 ∨
    (kgStep cap v s).status.errcode = 4 := by
  have hreject : (reject cap s).status.errcode = s.status.errcode ∨ (reject cap s).status.errcode = 0 ∨
      (reject cap s).status.errcode = 4 := (reject_errcode cap s).imp_right .inr
  unfold kgStep
  split
  · unfold stepP
    split
    · exact .inl rfl
    · exact hreject
  · unfold stepQ
    split
    · exact .inl rfl
    · exact hreject
  · next hphase =>
    unfold stepE
    split
    · next hdraw =>
      obtain ⟨d, -, hd⟩ := exists_modInverse_of_draw hphase hdraw.1 hdraw.2
      rw [hd]
      exact .inr (.inl rfl)
    · exact hreject

/-! ## The obligations -/

/-- Settles O29: the loop's answer is the greatest common divisor, which has both equations. -/
theorem gcdFollowsEuclid : Obligations.GcdFollowsEuclid := by
  refine ⟨fun a => rfl, fun a b _ => ?_⟩
  rw [euclidGcd_eq_gcd, euclidGcd_eq_gcd, gcd_eq_gcd_mod]

/-- Settles O30, by the value of the Euclidean loop. -/
theorem gcdGivesGreatestCommonDivisor : Obligations.GcdGivesGreatestCommonDivisor := by
  intro s
  refine ⟨gcd_toNat_lt s.la s.lb, ?_⟩
  rw [exec_gcd, euclidGcd_eq_gcd]
  rfl

/-- Settles O31, by the extended loop's invariant: each remainder is its coefficient's multiple of `e` modulo `phi`. -/
theorem modinvGivesTheInverse : Obligations.ModinvGivesTheInverse := by
  intro s hlb hgcd
  have hphi : s.lb.toNat ≠ 0 := fun h => hlb (BitVec.eq_of_toNat_eq h)
  obtain ⟨d, hinv, hd⟩ := exists_modInverse_eq_some hphi hgcd
  refine ⟨d, hinv, ?_⟩
  rw [exec_modinv, hd]
  rfl

/-- Settles O32: the extended loop ends with the greatest common divisor, so the test on it is exact. -/
theorem modinvReportsNonInvertible : Obligations.ModinvReportsNonInvertible := by
  intro s h
  rw [exec_modinv, modInverse_eq_none (h.imp_left (congrArg BitVec.toNat))]
  rfl

/-- Settles O41: ERRCODE is 0 while BUSY, and an accepted exponent has an inverse. -/
theorem keygenNeverNonInvertible : Obligations.KeygenNeverNonInvertible := by
  intro s t h he ht
  cases ht
  have h0 : s.status.errcode = 0 := h.busy_errcode (h.busy_of_keygen he)
  rcases kgStep_errcode Config.kgRetryCap (nextDraw s).toNat (consumeDraw s) with e | e | e
  · exact .inl (e.trans h0)
  · exact .inl e
  · exact .inr e

end Sys2Proof.Machine
end

section
/-! PROOF. The modular-exponentiation unit's answer: the reference method computes the power (43_modexp.md R161, R162).
-/

namespace Sys2Proof.Machine

/-- The exponent's low bit is split off. -/
theorem mul_pow_split_low_bit (a b x : Nat) : (if x % 2 = 1 then a * b else a) * (b * b) ^ (x / 2) = a * b ^ x := by
  have hx := Nat.mod_add_div x 2
  rw [← pow_two, ← pow_mul]
  split
  · next hodd => rw [mul_assoc, ← pow_succ', Nat.add_comm, ← hodd, hx]
  · next heven =>
    have heven : x % 2 = 0 := by omega
    rw [heven, Nat.zero_add] at hx
    rw [hx]

/-- As many iterations as the exponent has bits are enough. -/
theorem powLoop_eq {m fuel a b x : Nat} (h : x < 2 ^ fuel) : powLoop m fuel (a % m) (b % m) x = a * b ^ x % m := by
  induction fuel generalizing a b x with
  | zero =>
    obtain rfl : x = 0 := by simpa using h
    simp [powLoop]
  | succ fuel ih =>
    rw [powLoop]
    split
    · have hacc : (if x % 2 = 1 then a % m * (b % m) % m else a % m) = (if x % 2 = 1 then a * b else a) % m := by
        split
        · exact (Nat.mul_mod ..).symm
        · rfl
      rw [hacc, ← Nat.mul_mod, ih (by rw [pow_succ] at h; omega), mul_pow_split_low_bit]
    · next hx =>
      obtain rfl : x = 0 := by omega
      simp

/-- The unit's answer is R161's. -/
theorem modexp_eq_pow_mod (b x m : Nat) : modexp b x m = b ^ x % m := by
  rw [modexp, powLoop_eq Nat.lt_log2_self, one_mul]

end Sys2Proof.Machine
end

section
/-! PROOF. The family 42_keygen.md: what a draw does in each sampling loop (R133 to R139), which steps consume one
(R130), and that the results of a successful KEYGEN are an RSA keypair (R140, R141). -/

namespace Sys2Proof.Machine

/-! ## The draws that a sampling loop accepts (R133 to R135) -/

namespace KgRegs

variable {kg : KgRegs} {v : Nat}

theorem acceptable_P_iff (h : kg.phase = .P) : kg.Acceptable v ↔ 2 ≤ v ∧ v ≤ 1000 ∧ Nat.Prime v := by
  simp only [Acceptable, h, isPrime_iff]

theorem acceptable_Q_iff (h : kg.phase = .Q) :
    kg.Acceptable v ↔ 2 ≤ v ∧ v ≤ 1000 ∧ Nat.Prime v ∧ v ≠ kg.p := by
  simp only [Acceptable, h, isPrime_iff]

theorem acceptable_E_iff (h : kg.phase = .E) :
    kg.Acceptable v ↔ 1 ≤ v ∧ v ≤ kg.phi ∧ Nat.gcd kg.phi v = 1 := by
  simp only [Acceptable, h, euclidGcd_eq_gcd]

theorem samplingRange_prime_phase (h : kg.phase = .P ∨ kg.phase = .Q) : samplingRange kg = (2, 1000) := by
  rcases h with h | h <;> rw [samplingRange, h] <;> rfl

theorem samplingRange_exponent_phase (h : kg.phase = .E) : samplingRange kg = (1, kg.phi) := by
  rw [samplingRange, h]

/-- The range of a draw in phase E (R135). -/
theorem inRange_exponent_phase (h : kg.phase = .E) (v : Nat) : inRange kg v = true ↔ 1 ≤ v ∧ v ≤ kg.phi := by
  rw [inRange, samplingRange_exponent_phase h, decide_eq_true_iff]

/-- The test of phase P is R133's. -/
theorem loopTest_P_iff (h : kg.phase = .P) : (inRange kg v ∧ isPrime v) ↔ kg.Acceptable v := by
  rw [acceptable_P_iff h, inRange_prime_phase (.inl h), isPrime_iff, and_assoc]
  rfl

/-- The test of phase Q is R134's. -/
theorem loopTest_Q_iff (h : kg.phase = .Q) :
    (inRange kg v ∧ isPrime v ∧ v ≠ kg.p) ↔ kg.Acceptable v := by
  rw [acceptable_Q_iff h, inRange_prime_phase (.inr h), isPrime_iff, and_assoc]
  rfl

/-- The test of phase E is R135's. -/
theorem loopTest_E_iff (h : kg.phase = .E) :
    (inRange kg v ∧ euclidGcd kg.phi v = 1) ↔ kg.Acceptable v := by
  rw [acceptable_E_iff h, inRange_exponent_phase h, euclidGcd_eq_gcd, and_assoc]

/-- A draw outside the range presented is not acceptable (R139). -/
theorem Acceptable.inRange (h : kg.Acceptable v) : inRange kg v = true := by
  cases hphase : kg.phase with
  | P => exact ((loopTest_P_iff hphase).mpr h).1
  | Q => exact ((loopTest_Q_iff hphase).mpr h).1
  | E => exact ((loopTest_E_iff hphase).mpr h).1

end KgRegs

/-! ## What a draw does -/

/-- R137 as the obligations write it. -/
theorem reject_eq_rejected (cap : Config.RetryCap) (s : State) : reject cap s = s.rejected cap := by
  cases cap <;> rfl

section Draw

variable {s : State} {v : Nat} (cap : Config.RetryCap)

theorem kgStep_phase_P (h : s.kg.phase = .P) : kgStep cap v s = stepP cap v s := by simp only [kgStep, h]

theorem kgStep_phase_Q (h : s.kg.phase = .Q) : kgStep cap v s = stepQ cap v s := by simp only [kgStep, h]

theorem kgStep_phase_E (h : s.kg.phase = .E) : kgStep cap v s = stepE cap v s := by simp only [kgStep, h]

/-- A draw that the loop does not accept is rejected, in every phase. -/
theorem kgStep_of_not_acceptable (h : ¬s.kg.Acceptable v) : kgStep cap v s = s.rejected cap := by
  rw [← reject_eq_rejected]
  cases hphase : s.kg.phase with
  | P => exact (kgStep_phase_P cap hphase).trans (if_neg (mt (KgRegs.loopTest_P_iff hphase).mp h))
  | Q => exact (kgStep_phase_Q cap hphase).trans (if_neg (mt (KgRegs.loopTest_Q_iff hphase).mp h))
  | E => exact (kgStep_phase_E cap hphase).trans (if_neg (mt (KgRegs.loopTest_E_iff hphase).mp h))

/-- An accepted draw of phase P becomes KG_P, and phase Q begins (R133). -/
theorem kgStep_accepts_P (hphase : s.kg.phase = .P) (h : s.kg.Acceptable v) :
    kgStep cap v s = { s with kg := { s.kg with p := v, rej := 0, phase := .Q } } :=
  (kgStep_phase_P cap hphase).trans (if_pos ((KgRegs.loopTest_P_iff hphase).mpr h))

/-- An accepted draw of phase Q becomes KG_Q, KG_N and KG_PHI are computed, and phase E begins (R134). -/
theorem kgStep_accepts_Q (hphase : s.kg.phase = .Q) (h : s.kg.Acceptable v) :
    kgStep cap v s = { s with kg := {
      phase := .E, p := s.kg.p, q := v, n := s.kg.p * v, phi := (s.kg.p - 1) * (v - 1), rej := 0 } } :=
  (kgStep_phase_Q cap hphase).trans (if_pos ((KgRegs.loopTest_Q_iff hphase).mpr h))

/-- An accepted draw of phase E has an inverse, and completes the command (R135). -/
theorem kgStep_accepts_E (hphase : s.kg.phase = .E) (h : s.kg.Acceptable v) :
    ∃ d, IsInverse d v s.kg.phi ∧
      kgStep cap v s =
        ({ s with res0 := toWord v, res1 := toWord d, res2 := toWord s.kg.n } : State).completed 0 := by
  obtain ⟨hrange, hgcd⟩ := (KgRegs.loopTest_E_iff hphase).mpr h
  obtain ⟨d, hinv, hd⟩ := exists_modInverse_of_draw hphase hrange hgcd
  refine ⟨d, hinv, (kgStep_phase_E cap hphase).trans ((if_pos ⟨hrange, hgcd⟩).trans ?_)⟩
  rw [hd]
  rfl

end Draw

theorem drawRequest_of_keygen {s : State} (he : s.engOp = .op .keygen) :
    drawRequest s = some (samplingRange s.kg) := by rw [drawRequest, he]

theorem drawRequest_of_other {s : State} (he : s.engOp ≠ .op .keygen) : drawRequest s = none := by
  unfold drawRequest
  split
  · next hk => exact absurd hk he
  · rfl

/-- KEYGEN's Engine step takes the port's next draw. -/
theorem exec_keygen (s : State) :
    exec .keygen s = .next (kgStep Config.kgRetryCap (nextDraw s).toNat s.drawn) := rfl

theorem exec_keygen_of_not_acceptable {s : State} (h : ¬s.kg.Acceptable (nextDraw s).toNat) :
    exec .keygen s = .next (s.drawn.rejected Config.kgRetryCap) := by
  rw [exec_keygen, kgStep_of_not_acceptable (s := s.drawn) _ h]

/-! ## Loops of rejected draws (R137, R138) -/

/-- The state with KG_REJ at `r`. -/
def State.withRej (r : Nat) (s : State) : State := { s with kg := { s.kg with rej := r } }

@[simp] theorem withRej_rej (r : Nat) (s : State) : (s.withRej r).kg.rej = r := rfl

@[simp] theorem withRej_withRej (r r' : Nat) (s : State) : (s.withRej r).withRej r' = s.withRej r' := rfl

/-- What a loop accepts does not depend on KG_REJ. -/
@[simp] theorem withRej_acceptable (r v : Nat) (s : State) : (s.withRej r).kg.Acceptable v ↔ s.kg.Acceptable v :=
  Iff.rfl

/-- While the cap is not used up, a rejected draw only counts. -/
theorem rejected_counts {cap : Config.RetryCap} {s : State} (h : ∀ k, cap = some k → s.kg.rej + 1 < k.val) :
    s.rejected cap = s.withRej (s.kg.rej + 1) := by
  cases cap with
  | none => rfl
  | some k => exact if_neg (not_le.mpr (h k rfl))

/-- Draws that the loop does not accept only count, as long as they do not use up the cap. -/
theorem foldl_kgStep_counts {cap : Config.RetryCap} {vs : List Nat} {s : State}
    (hvs : ∀ v ∈ vs, ¬s.kg.Acceptable v) (hcap : ∀ k, cap = some k → s.kg.rej + vs.length < k.val) :
    vs.foldl (fun s v => kgStep cap v s) s = s.withRej (s.kg.rej + vs.length) := by
  induction vs generalizing s with
  | nil => rfl
  | cons v vs ih =>
    obtain ⟨hv, hvs⟩ := List.forall_mem_cons.mp hvs
    have hlen : s.kg.rej + 1 + vs.length = s.kg.rej + (v :: vs).length := Nat.add_right_comm ..
    have hstep : kgStep cap v s = s.withRej (s.kg.rej + 1) := by
      rw [kgStep_of_not_acceptable cap hv]
      exact rejected_counts fun k hk => (Nat.le_add_right ..).trans_lt (hlen.trans_lt (hcap k hk))
    have hrest := ih (s := s.withRej (s.kg.rej + 1)) (by simpa only [withRej_acceptable] using hvs) fun k hk =>
      hlen.trans_lt (hcap k hk)
    rw [List.foldl_cons, hstep, hrest, withRej_rej, withRej_withRej, hlen]

/-- The draw that uses up the cap ends the command. -/
theorem foldl_kgStep_exhausts {k : { k : Nat // 0 < k }} {vs : List Nat} {s : State}
    (hvs : ∀ v ∈ vs, ¬s.kg.Acceptable v) (hlen : s.kg.rej + vs.length = k.val) (hne : vs ≠ []) :
    vs.foldl (fun s v => kgStep (some k) v s) s = s.completed 4 := by
  obtain rfl | ⟨ws, v, rfl⟩ := List.eq_nil_or_concat' vs
  · exact absurd rfl hne
  · rw [List.length_append, List.length_singleton, ← Nat.add_assoc] at hlen
    obtain ⟨hws, hlast⟩ := List.forall_mem_append.mp hvs
    have hv : ¬(s.withRej (s.kg.rej + ws.length)).kg.Acceptable v :=
      mt (withRej_acceptable ..).mp (hlast v (List.mem_singleton_self v))
    have hcounts := foldl_kgStep_counts (cap := some k) hws fun _ hk => by
      cases hk
      omega
    rw [List.foldl_append, hcounts, List.foldl_cons, List.foldl_nil, kgStep_of_not_acceptable _ hv]
    exact if_pos hlen.ge

/-! ## Which steps consume a draw (R130) -/

/-- The Engine's turn consumes one draw if it is KEYGEN's, else none. -/
theorem engineTurn_draws {s t : State} (h : engineTurn s = .next t) :
    (s.engOp = .op .keygen ∧ t.draws = s.draws.tail ∧ t.drawCount = s.drawCount + 1) ∨
    (s.engOp ≠ .op .keygen ∧ t.draws = s.draws ∧ t.drawCount = s.drawCount) := by
  rcases engineTurn_forms h with
    ⟨he, rfl⟩ | ⟨-, hne, a, rfl⟩ | ⟨-, hne, code, -, rfl⟩ | ⟨he, ⟨a, b, c, rfl⟩ | ⟨code, -, rfl⟩ | ⟨kg, rfl⟩⟩
  · exact .inr ⟨by simp [he], rfl, rfl⟩
  · exact .inr ⟨hne, rfl, rfl⟩
  · exact .inr ⟨hne, rfl, rfl⟩
  all_goals exact .inl ⟨he, rfl, rfl⟩

/-- A register write is no turn of the Engine. -/
theorem WritesReg.nextTurn_ne_engine {s : State} {r : RegName} {v : Word} (h : WritesReg s r v) :
    nextTurn s ≠ .engine := by
  rcases h with hn | hn | ⟨hn, -⟩ <;> simp [hn]

/-- A step is KEYGEN's and consumes one draw, or is not and consumes none. -/
theorem step_draws {s t : State} (h : step s = .next t) :
    ((nextTurn s = .engine ∧ s.engOp = .op .keygen) ∧ t.draws = s.draws.tail ∧ t.drawCount = s.drawCount + 1) ∨
    (¬(nextTurn s = .engine ∧ s.engOp = .op .keygen) ∧ t.draws = s.draws ∧ t.drawCount = s.drawCount) := by
  rcases step_cases h with ⟨hn, rfl⟩ | ⟨hn, he⟩ | ⟨r, v, hw, -, ht⟩ | ⟨-, hn, -, ht⟩
  · exact .inr ⟨by simp [hn], rfl, rfl⟩
  · exact (engineTurn_draws he).imp (And.imp_left fun hop => ⟨hn, hop⟩) (And.imp_left fun hop => mt And.right hop)
  · obtain ⟨-, -, -, -, -, -, hdraws, hcount, -⟩ := writeReg_frame r v (takeTurn s)
    rw [ht]
    exact .inr ⟨mt And.left hw.nextTurn_ne_engine, hdraws, hcount⟩
  · rw [ht]
    exact .inr ⟨mt And.left hn, rfl, rfl⟩

/-! ## The primes of a keypair -/

/-- 997 is the largest prime of the search range, and 991 the one before it. -/
theorem KeyPrime.le_or_eq {p : Nat} (h : KeyPrime p) : p ≤ 991 ∨ p = 997 := by
  obtain ⟨hprime, -, hhi⟩ := h
  by_contra hnot
  have hlo : 992 ≤ p := by omega
  have hmax : p ≤ 1000 := hhi
  revert hprime hnot
  interval_cases p <;> norm_num

theorem KeyPrime.two_le {p : Nat} (h : KeyPrime p) : 2 ≤ p := h.2.1

section PrimePair

variable {p q : Nat} (hp : KeyPrime p) (hq : KeyPrime q) (hne : p ≠ q)
include hp hq hne

/-- Distinct primes: the smallest pair is 2 and 3. -/
theorem keyPrime_pair_lower : 6 ≤ p * q ∧ 2 ≤ (p - 1) * (q - 1) := by
  have hp2 := hp.two_le
  have hq2 := hq.two_le
  rcases lt_or_gt_of_ne hne with hlt | hlt
  · exact ⟨Nat.mul_le_mul hp2 (by omega : 3 ≤ q), Nat.mul_le_mul (by omega : 1 ≤ p - 1) (by omega : 2 ≤ q - 1)⟩
  · exact ⟨Nat.mul_le_mul (by omega : 3 ≤ p) hq2, Nat.mul_le_mul (by omega : 2 ≤ p - 1) (by omega : 1 ≤ q - 1)⟩

/-- Distinct primes: the largest pair is 997 and 991. -/
theorem keyPrime_pair_upper : p * q ≤ 988027 ∧ (p - 1) * (q - 1) ≤ 986040 := by
  have hcases : (p ≤ 991 ∧ q ≤ 997) ∨ (p ≤ 997 ∧ q ≤ 991) := by
    have := hp.le_or_eq
    have := hq.le_or_eq
    omega
  rcases hcases with ⟨hp', hq'⟩ | ⟨hp', hq'⟩
  · exact ⟨Nat.mul_le_mul hp' hq', Nat.mul_le_mul (by omega : p - 1 ≤ 990) (by omega : q - 1 ≤ 996)⟩
  · exact ⟨Nat.mul_le_mul hp' hq', Nat.mul_le_mul (by omega : p - 1 ≤ 996) (by omega : q - 1 ≤ 990)⟩

end PrimePair

/-! ## The results of a successful KEYGEN (R140) -/

theorem toWord_toNat (w : Word) : toWord w.toNat = w := by simp [toWord]

theorem toNat_toWord_of_lt {x : Nat} (h : x < 2 ^ 64) : (toWord x).toNat = x := Nat.mod_eq_of_lt h

/-- What KEYGEN promises of its results `e`, `d` and `n`, for the primes that it drew. -/
structure IsKeypair (p q e d n : Nat) : Prop where
  p_prime : KeyPrime p
  q_prime : KeyPrime q
  ne : p ≠ q
  n_eq : n = p * q
  one_le_e : 1 ≤ e
  e_lt : e < (p - 1) * (q - 1)
  coprime : Nat.gcd e ((p - 1) * (q - 1)) = 1
  d_lt : d < (p - 1) * (q - 1)
  e_mul_d : e * d % ((p - 1) * (q - 1)) = 1

/-- A draw that phase E accepts, with its inverse, makes a keypair of the primes held. -/
theorem KgRegs.Progress.isKeypair {kg : KgRegs} (h : kg.Progress) (hphase : kg.phase = .E) {e d : Nat}
    (hdraw : kg.Acceptable e) (hinv : IsInverse d e kg.phi) : IsKeypair kg.p kg.q e d kg.n := by
  obtain ⟨hp, hq, hne, hn, hphi⟩ := (progress_E hphase).mp h
  obtain ⟨hlo, hhi, hgcd⟩ := (acceptable_E_iff hphase).mp hdraw
  obtain ⟨hd, hmul⟩ := hinv
  obtain ⟨-, hphi2⟩ := keyPrime_pair_lower hp hq hne
  rw [← hphi] at hphi2
  have hlt : e < kg.phi := by
    refine lt_of_le_of_ne hhi fun heq => ?_
    rw [heq, Nat.gcd_self] at hgcd
    omega
  rw [Nat.one_mod_eq_one.mpr (by omega)] at hmul
  rw [Nat.gcd_comm] at hgcd
  exact ⟨hp, hq, hne, hn, hlo, hphi ▸ hlt, hphi ▸ hgcd, hphi ▸ hd, hphi ▸ hmul⟩

section Success

variable {s t : State}

theorem runTurn_engine_keygen (he : s.engOp = .op .keygen) : runTurn .engine s = exec .keygen s := by
  simp only [runTurn, engineTurn, he]

/-- KEYGEN completes with NONE only by an accepted draw of phase E. -/
theorem keygen_success (hs : s.Inv) (he : s.engOp = .op .keygen) (ht : exec .keygen s = .next t)
    (hdone : t.status.done = true) (herr : t.status.errcode = 0) :
    s.kg.phase = .E ∧ s.kg.Acceptable (nextDraw s).toNat := by
  have hrunning : s.drawn.status.done = false := hs.busy_done (hs.busy_of_keygen he)
  rw [exec_keygen] at ht
  cases ht
  by_cases h : s.drawn.kg.Acceptable (nextDraw s).toNat
  · cases hphase : s.drawn.kg.phase with
    | P => simp [kgStep_accepts_P _ hphase h, hrunning] at hdone
    | Q => simp [kgStep_accepts_Q _ hphase h, hrunning] at hdone
    | E => exact ⟨hphase, h⟩
  · rw [kgStep_of_not_acceptable _ h, ← reject_eq_rejected] at hdone herr
    rcases reject_completed Config.kgRetryCap s.drawn with ⟨r, hr⟩ | hr
    · simp [hr, hrunning] at hdone
    · simp [hr, State.completed] at herr

/-- The results of a successful KEYGEN are a keypair. -/
theorem keygen_isKeypair (hs : s.Inv) (he : s.engOp = .op .keygen) (ht : runTurn .engine s = .next t)
    (hdone : t.status.done = true) (herr : t.status.errcode = 0) :
    ∃ p q, IsKeypair p q t.res0.toNat t.res1.toNat t.res2.toNat := by
  rw [runTurn_engine_keygen he] at ht
  obtain ⟨hphase, hdraw⟩ := keygen_success hs he ht hdone herr
  obtain ⟨d, hinv, hstep⟩ := kgStep_accepts_E (s := s.drawn) Config.kgRetryCap hphase hdraw
  rw [exec_keygen, hstep] at ht
  cases ht
  have hpair := (hs.kg_progress he).isKeypair hphase hdraw hinv
  obtain ⟨hn, hphi⟩ := keyPrime_pair_upper hpair.p_prime hpair.q_prime hpair.ne
  have hd := hpair.d_lt
  have hn_eq := hpair.n_eq
  refine ⟨s.kg.p, s.kg.q, ?_⟩
  show IsKeypair _ _ (toWord (nextDraw s).toNat).toNat (toWord d).toNat (toWord s.kg.n).toNat
  rwa [toWord_toNat, toNat_toWord_of_lt (by omega), toNat_toWord_of_lt (by omega)]

end Success

/-! ## RSA correctness (R141) -/

/-- Fermat: an exponent that is 1 modulo `p - 1` gives back every number, modulo the prime `p`. -/
theorem pow_modEq_self_of_prime {p k : Nat} (hp : Nat.Prime p) (hk : p - 1 ∣ k) (c : Nat) :
    c ^ (k + 1) ≡ c [MOD p] := by
  by_cases hc : p ∣ c
  · have hzero : c ≡ 0 [MOD p] := Nat.modEq_zero_iff_dvd.mpr hc
    exact (Nat.modEq_zero_iff_dvd.mpr (dvd_pow hc k.succ_ne_zero)).trans hzero.symm
  · obtain ⟨j, rfl⟩ := hk
    have hfermat : c ^ (p - 1) ≡ 1 [MOD p] :=
      Nat.ModEq.pow_card_sub_one_eq_one hp ((hp.coprime_iff_not_dvd.mpr hc).symm)
    have hpow := (hfermat.pow j).mul_right c
    rwa [← pow_mul, one_pow, one_mul, ← pow_succ] at hpow

/-- Encryption and decryption are the identity below `n`, by Fermat modulo each prime and the Chinese remainders. -/
theorem IsKeypair.pow_pow_mod {p q e d n : Nat} (h : IsKeypair p q e d n) {c : Nat} (hc : c < n) :
    (c ^ e % n) ^ d % n = c := by
  have hp := h.p_prime.1
  have hq := h.q_prime.1
  obtain ⟨k, hk, hphi⟩ : ∃ k, e * d = k + 1 ∧ (p - 1) * (q - 1) ∣ k := by
    have hdiv := Nat.mod_add_div (e * d) ((p - 1) * (q - 1))
    rw [h.e_mul_d, Nat.add_comm] at hdiv
    exact ⟨_, hdiv.symm, Nat.dvd_mul_right ..⟩
  have hmod : c ^ (k + 1) ≡ c [MOD p * q] :=
    (Nat.modEq_and_modEq_iff_modEq_mul ((Nat.coprime_primes hp hq).mpr h.ne)).mp
      ⟨pow_modEq_self_of_prime hp (dvd_of_mul_right_dvd hphi) c,
        pow_modEq_self_of_prime hq (dvd_of_mul_left_dvd hphi) c⟩
  rw [← Nat.pow_mod, ← pow_mul, hk, h.n_eq]
  rw [h.n_eq] at hc
  exact Nat.mod_eq_of_modEq hmod hc

/-! ## The obligations -/

/-- Settles O42: a draw that phase E accepts makes a keypair of the primes held. -/
theorem keypairIsValid : Obligations.KeypairIsValid := by
  intro s t hs he ht hdone herr
  obtain ⟨p, q, h⟩ := keygen_isKeypair hs he ht hdone herr
  obtain ⟨hn6, hphi2⟩ := keyPrime_pair_lower h.p_prime h.q_prime h.ne
  obtain ⟨hn, hphi⟩ := keyPrime_pair_upper h.p_prime h.q_prime h.ne
  exact ⟨p, q, h.p_prime, h.q_prime, h.ne, h.n_eq, hphi2, hphi, h.one_le_e, h.e_lt, h.coprime, h.d_lt, h.e_mul_d,
    h.n_eq ▸ hn6, h.n_eq ▸ hn⟩

/-- Settles O43: MODEXP computes powers, and a keypair's exponents undo each other. -/
theorem keypairRoundTripsThroughModexp : Obligations.KeypairRoundTripsThroughModexp := by
  intro s t hs he ht hdone herr c hc
  obtain ⟨p, q, h⟩ := keygen_isKeypair hs he ht hdone herr
  rw [modexp_eq_pow_mod, modexp_eq_pow_mod]
  exact h.pow_pow_mod hc

/-- Settles O34: in phase P the acceptable draws are the primes in range. -/
theorem keygenPhasePAcceptsPrimes : Obligations.KeygenPhasePAcceptsPrimes := by
  intro s hphase
  rw [← KgRegs.acceptable_P_iff hphase]
  exact ⟨fun h => congrArg _ (kgStep_accepts_P (s := s.drawn) _ hphase h), exec_keygen_of_not_acceptable⟩

/-- Settles O35: in phase Q the acceptable draws are the primes in range other than KG_P. -/
theorem keygenPhaseQAcceptsAnotherPrime : Obligations.KeygenPhaseQAcceptsAnotherPrime := by
  intro s hphase _
  rw [← KgRegs.acceptable_Q_iff hphase]
  exact ⟨fun h => congrArg _ (kgStep_accepts_Q (s := s.drawn) _ hphase h), exec_keygen_of_not_acceptable⟩

/-- Settles O36: in phase E the acceptable draws are those coprime to KG_PHI, which have an inverse. -/
theorem keygenPhaseECompletes : Obligations.KeygenPhaseECompletes := by
  intro s hphase
  rw [← KgRegs.acceptable_E_iff hphase]
  refine ⟨fun h => ?_, exec_keygen_of_not_acceptable⟩
  obtain ⟨d, hinv, hstep⟩ := kgStep_accepts_E (s := s.drawn) Config.kgRetryCap hphase h
  rw [toWord_toNat] at hstep
  exact ⟨d, hinv, congrArg _ hstep⟩

/-- Settles O37, by induction on the draws: each only counts. -/
theorem keygenHangsWithoutAcceptableDraws : Obligations.KeygenHangsWithoutAcceptableDraws :=
  fun _ _ hvs => foldl_kgStep_counts hvs (by simp)

/-- Settles O38: the draws before the last one only count, and the last one uses up the cap. -/
theorem keygenEndsWhenTheCapIsUsedUp : Obligations.KeygenEndsWhenTheCapIsUsedUp := by
  refine ⟨reject_eq_rejected, fun cap v s h => kgStep_of_not_acceptable cap h, fun k vs s hvs hrej => ⟨?_, ?_⟩⟩
  · intro hlt
    rw [foldl_kgStep_counts hvs (by simpa [hrej] using hlt), hrej, Nat.zero_add]
    rfl
  · intro hlen
    refine foldl_kgStep_exhausts hvs (by rw [hrej, Nat.zero_add, hlen]) ?_
    exact List.ne_nil_of_length_pos (hlen ▸ k.2)

/-- Settles O39, by the forms of a step. -/
theorem onlyKeygenConsumesDraws : Obligations.OnlyKeygenConsumesDraws := by
  intro s t h
  rcases step_draws h with ⟨hkeygen, hdraws⟩ | ⟨hother, hdraws⟩
  · exact ⟨fun _ => hdraws, fun hn => absurd hkeygen hn⟩
  · exact ⟨fun hk => absurd hk hother, fun _ => hdraws⟩

/-- Settles O40: a draw outside the range presented is not acceptable. -/
theorem keygenPresentsItsSamplingRange : Obligations.KeygenPresentsItsSamplingRange := by
  intro s
  refine ⟨drawRequest_of_other, fun he => ?_⟩
  refine ⟨_, _, drawRequest_of_keygen he, fun hphase => ?_, fun hphase => ?_, fun hout => ?_⟩
  · exact Prod.ext_iff.mp (KgRegs.samplingRange_prime_phase hphase)
  · exact Prod.ext_iff.mp (KgRegs.samplingRange_exponent_phase hphase)
  · refine exec_keygen_of_not_acceptable fun hacc => ?_
    obtain ⟨hlo, hhi⟩ : (samplingRange s.kg).1 ≤ (nextDraw s).toNat ∧ (nextDraw s).toNat ≤ (samplingRange s.kg).2 :=
      of_decide_eq_true hacc.inRange
    exact hout.elim hlo.not_gt hhi.not_gt

end Sys2Proof.Machine
end

section
/-! PROOF. The family 43_modexp.md: what MODEXP answers (R160, R161, R163). -/

namespace Sys2Proof.Machine

/-- MODEXP completes with the unit's answer on LA, LB and LC (R160). -/
theorem exec_modexp (s : State) :
    exec .modexp s = .next (completeModexp s.la.toNat s.lb.toNat s.lc.toNat s) := rfl

/-- A modulus of 0 is DOMAIN, and no result is written (R163). -/
theorem completeModexp_zero (b x : Nat) (s : State) : completeModexp b x 0 s = s.completed 3 := rfl

/-- With any other modulus RES0 takes the power, and the command completes with NONE (R160, R161). -/
theorem completeModexp_of_ne_zero {m : Nat} (hm : m ≠ 0) (b x : Nat) (s : State) :
    completeModexp b x m s = ({ s with res0 := toWord (b ^ x % m) } : State).completed 0 := by
  rw [completeModexp, if_neg hm, modexp_eq_pow_mod]
  rfl

/-! ## The obligation -/

/-- Settles O33: the two cases of the modulus, with the reference method's answer the power. -/
theorem modexpGivesThePower : Obligations.ModexpGivesThePower := by
  refine ⟨(decode_eq_instr_iff_eq_encode _ _).mpr rfl, fun s => ⟨fun hlc => ?_, fun hlc => ?_⟩⟩
  · rw [exec_modexp, hlc]
    exact congrArg _ (completeModexp_zero ..)
  · have hm : s.lc.toNat ≠ 0 := fun h => hlc (BitVec.eq_of_toNat_eq h)
    refine ⟨Nat.mod_lt _ (Nat.pos_of_ne_zero hm), ?_⟩
    rw [exec_modexp, completeModexp_of_ne_zero hm]
    rfl

end Sys2Proof.Machine
end

section
/-! PROOF. The family 60_exceptions.md: the life of a command, from acceptance (R201) or a dropped write (R202) over its
Engine steps (R200) to its completion (R203, R205), and that no step traps (R213). -/

namespace Sys2Proof.Machine

/-! ## Acceptance and the dropped write (R201, R202) -/

/-- ENG_OP of a word that is a command (R73). -/
theorem EngOp.ofWord_of_decode {w : Word} {i : Instr} (h : decode w = .instr i) : EngOp.ofWord w = .op i := by
  rw [ofWord, h]

theorem tableWord_toNat (w : Word) : tableWord 64 w.toNat = w := by
  rw [tableWord, Nat.mod_eq_of_lt w.isLt, BitVec.ofNat_toNat, BitVec.setWidth_eq]

/-- A CMD write while BUSY = 0 is accepted, and the Host is told so. -/
theorem hostAccess_cmd_of_idle {s : State} (h : s.status.busy = false) (w : Word) :
    hostAccess 0x00 (.write 8 w) s = (accept w s).responded (.done 0x00) :=
  writeReg_cmd_of_idle h w ▸ hostAccess_write_regOffset .cmd w s

/-- A CMD write while BUSY = 1 only sets OVR, and the Host is told that it is done. -/
theorem hostAccess_cmd_of_busy {s : State} (h : s.status.busy = true) (w : Word) :
    hostAccess 0x00 (.write 8 w) s = (overrun s).responded (.done 0x00) := by
  have hwrite : writeReg .cmd w s = overrun s := if_pos h
  exact hwrite ▸ hostAccess_write_regOffset .cmd w s

/-- A register write accepts a command, or does not clear OVR. -/
theorem writeReg_ovr (r : RegName) (v : Word) {s : State} (h : s.status.ovr = true) :
    (s.status.busy = false ∧ (writeReg r v s).status.busy = true) ∨ (writeReg r v s).status.ovr = true := by
  rcases writeReg_cases r v s with ⟨-, e⟩ | ⟨-, e⟩ | ⟨-, e⟩ | ⟨-, -, e⟩ | ⟨-, hidle, e⟩ | ⟨-, e⟩ <;> rw [e]
  case inr.inr.inr.inr.inl => exact .inl ⟨hidle, rfl⟩
  case inr.inr.inr.inl => exact .inr rfl
  all_goals exact .inr h

/-! ## The Engine's turn (R200, R203) -/

theorem engineTurn_of_op {s : State} {i : Instr} (h : s.engOp = .op i) : engineTurn s = exec i s := by
  rw [engineTurn, h]

theorem engineTurn_of_none {s : State} (h : s.engOp = .none) : engineTurn s = .next s := by
  rw [engineTurn, h]

/-- The Engine's turn keeps STATUS, or completes the command in execution (R203). -/
theorem engineTurn_status {s t : State} (h : engineTurn s = .next t) :
    t.status = s.status ∨
    (t.status.busy = false ∧ t.status.done = true ∧ t.status.ovr = s.status.ovr ∧ t.engOp = .none ∧
      t.kg = KgRegs.reset) := by
  rcases engineTurn_forms h with
    ⟨-, rfl⟩ | ⟨-, -, a, rfl⟩ | ⟨-, -, code, -, rfl⟩ | ⟨-, ⟨a, b, c, rfl⟩ | ⟨code, -, rfl⟩ | ⟨kg, rfl⟩⟩
  case inl => exact .inl rfl
  case inr.inr.inr.inr.inr => exact .inl rfl
  all_goals exact .inr ⟨rfl, rfl, rfl, rfl, rfl⟩

/-- The Engine's turn keeps OVR. -/
theorem engineTurn_ovr {s t : State} (h : engineTurn s = .next t) : t.status.ovr = s.status.ovr := by
  rcases engineTurn_status h with hst | ⟨-, -, hovr, -⟩
  · rw [hst]
  · exact hovr

/-- A command's Engine step ends the command or consumes a draw, so it is not without effect. -/
theorem engineTurn_ne_self {s : State} (hbusy : s.status.busy = true) (he : s.engOp ≠ .none) :
    engineTurn s ≠ .next s := by
  intro h
  rcases engineTurn_forms h with ⟨hnone, -⟩ | ⟨-, -, a, hs⟩ | ⟨-, -, code, -, hs⟩ | ⟨hkeygen, -⟩
  · exact he hnone
  · rw [hs] at hbusy
    cases hbusy
  · rw [hs] at hbusy
    cases hbusy
  · rcases engineTurn_draws h with ⟨-, -, hcount⟩ | ⟨hother, -⟩
    · omega
    · exact hother hkeygen

/-! ## The single-step commands -/

/-- The answer of a single-step command on its operands: the code that it completes with, and RES0 after it. -/
def SingleStepResult (i : Instr) (a b c : Nat) (code : BitVec 4) (res : Word) : Prop :=
  match i with
  | .isprime => code = 0 ∧ res = if Nat.Prime a then 1 else 0
  | .gcd => code = 0 ∧ res.toNat = Nat.gcd a b
  | .modinv => code = 0 → IsInverse res.toNat a b
  | .keygen => False
  | .modexp => c ≠ 0 → res.toNat = a ^ b % c

/-- The engine finds the inverse, or reports that there is none. -/
theorem modInverse_cases (e phi : Nat) :
    modInverse e phi = none ∨ ∃ d, IsInverse d e phi ∧ modInverse e phi = some d := by
  by_cases h : phi = 0 ∨ 1 < Nat.gcd e phi
  · exact .inl (modInverse_eq_none h)
  · have hpos : 0 < Nat.gcd e phi := Nat.gcd_pos_of_pos_right e (by omega)
    exact .inr (exists_modInverse_eq_some (by omega) (by omega))

/-- A single-step command completes in its one Engine step, and writes no register but RES0. -/
theorem exec_singleStep {i : Instr} (hi : i ≠ .keygen) (s : State) :
    ∃ code res, SingleStepResult i s.la.toNat s.lb.toNat s.lc.toNat code res ∧
      exec i s = .next (({ s with res0 := res } : State).completed code) := by
  cases i with
  | isprime => exact ⟨0, _, ⟨rfl, boolWord_isPrime _⟩, exec_isprime s⟩
  | gcd =>
    refine ⟨0, _, ⟨rfl, ?_⟩, exec_gcd s⟩
    rw [euclidGcd_eq_gcd, toNat_toWord_of_lt (gcd_toNat_lt s.la s.lb)]
  | modinv =>
    rcases modInverse_cases s.la.toNat s.lb.toNat with hd | ⟨d, hinv, hd⟩
    · refine ⟨1, s.res0, fun hcode => absurd hcode (by decide), ?_⟩
      rw [exec_modinv, hd]
      rfl
    · refine ⟨0, toWord d, fun _ => ?_, ?_⟩
      · rwa [toNat_toWord_of_lt (hinv.1.trans s.lb.isLt)]
      · rw [exec_modinv, hd]
        rfl
  | keygen => exact absurd rfl hi
  | modexp =>
    by_cases hm : s.lc.toNat = 0
    · refine ⟨3, s.res0, fun hne => absurd hm hne, ?_⟩
      rw [exec_modexp, hm]
      exact congrArg _ (completeModexp_zero ..)
    · have hlt : s.la.toNat ^ s.lb.toNat % s.lc.toNat < s.lc.toNat := Nat.mod_lt _ (Nat.pos_of_ne_zero hm)
      refine ⟨0, _, fun _ => toNat_toWord_of_lt (hlt.trans s.lc.isLt), ?_⟩
      rw [exec_modexp, completeModexp_of_ne_zero hm]

/-- The state after an idle block's step in which the Host writes `w` to CMD. -/
def State.afterAcceptance (w : Word) (s : State) : State := (accept w (takeTurn s)).responded (.done 0x00)

/-- The state after a step in which the Host writes `x` to OPA. -/
def State.afterOpaWrite (x : Word) (s : State) : State :=
  ({ takeTurn s with opa := x } : State).responded (.done 0x10)

theorem step_accepts {s : State} {w : Word} (hidle : s.status.busy = false)
    (hn : nextTurn s = .host 0x00 (.write 8 w)) : step s = .next (s.afterAcceptance w) := by
  rw [step_eq, hn]
  exact congrArg _ (hostAccess_cmd_of_idle (s := takeTurn s) hidle w)

theorem step_writes_opa {s : State} {x : Word} (hn : nextTurn s = .host 0x10 (.write 8 x)) :
    step s = .next (s.afterOpaWrite x) := by
  rw [step_eq, hn]
  rfl

theorem step_of_engine {s : State} (hn : nextTurn s = .engine) : step s = engineTurn (takeTurn s) := by
  rw [step_eq, hn]
  rfl

/-- In the Engine's turn a single-step command completes, with its answer on the operands' copies. -/
theorem step_completes {s : State} {i : Instr} (hi : i ≠ .keygen) (he : s.engOp = .op i)
    (hn : nextTurn s = .engine) :
    ∃ code res, SingleStepResult i s.la.toNat s.lb.toNat s.lc.toNat code res ∧
      step s = .next (({ takeTurn s with res0 := res } : State).completed code) := by
  rw [step_of_engine hn, engineTurn_of_op (s := takeTurn s) he]
  exact exec_singleStep hi (takeTurn s)

/-! ## No step traps (R213), and a well-formed host program is not refused (R76) -/

/-- Every turn but the host program's answers a next state. -/
theorem exists_runTurn_eq_next {t : Turn} (ht : t ≠ .hostLine) (s : State) : ∃ u, runTurn t s = .next u := by
  cases t with
  | hostLine => exact absurd rfl ht
  | engine => exact engineTurn_next s
  | host off a | bus addr a | reset => exact ⟨_, rfl⟩

theorem hostLineTurn_ne_fault (s : State) (f : Fault) : hostLineTurn s ≠ .fault f := by
  rcases hostLineTurn_cases s with h | ⟨r, v, w, -, -, h⟩ | ⟨x, r, -, h⟩ | ⟨n, h⟩ | h <;> rw [h] <;> nofun

/-- A well-formed value has a value. -/
theorem Value.exists_eval_of_wf {v : Value} (h : v.wf = true) (c : HostCtx) : ∃ w, Value.eval c v = some w := by
  cases v with
  | lit n => exact ⟨_, Value.eval_lit (of_decide_eq_true h) c⟩
  | var x => exact ⟨_, rfl⟩

/-- Only a label's own line defines it. -/
theorem HostLine.eq_label_of_labelDef {ln : HostLine} {l : Nat} (h : ln.labelDef = some l) : ln = .label l := by
  cases ln <;> cases h
  rfl

/-- A label that the program defines is at some line. -/
theorem exists_labelLine_of_mem {p : List HostLine} {l : Nat} (h : l ∈ hostLabels p) :
    ∃ pc, labelLine p l = some pc := by
  obtain ⟨ln, hmem, hdef⟩ := List.mem_filterMap.mp h
  have hfound : (labelLine p l).isSome := by
    rw [labelLine, List.findIdx?_isSome, List.any_eq_true]
    exact ⟨ln, hmem, decide_eq_true (HostLine.eq_label_of_labelDef hdef)⟩
  exact Option.isSome_iff_exists.mp hfound

/-- A branch whose mask and label R76 allows is not refused. -/
theorem exists_hostBranch_eq_next {s : State} {mask l : Nat}
    (h : (decide (mask < 2 ^ 64) && decide (l ∈ hostLabels s.host.program)) = true) (P : Word → Prop)
    [DecidablePred P] (x : Nat) : ∃ t, hostBranch (fun v => decide (P v)) x mask l s = .next t := by
  obtain ⟨hmask, hl⟩ : mask < 2 ^ 64 ∧ l ∈ hostLabels s.host.program := by
    simpa only [Bool.and_eq_true, decide_eq_true_iff] using h
  obtain ⟨pc, hpc⟩ := exists_labelLine_of_mem hl
  exact ⟨_, hostBranch_of_label hmask hpc P x⟩

/-- A well-formed line of the Host's program answers a next state. -/
theorem exists_execHostLine_eq_next {s : State} {ln : HostLine} (h : ln.wf s.host.program = true) :
    ∃ t, execHostLine ln s = .next t := by
  cases ln with
  | wr r v =>
    obtain ⟨w, hw⟩ := Value.exists_eval_of_wf h s.host
    exact ⟨_, execHostLine_wr hw r⟩
  | rd x r => exact ⟨_, execHostLine_rd x r s⟩
  | label l => exact ⟨_, rfl⟩
  | bnz x mask l => exact exists_hostBranch_eq_next h (· ≠ 0) x
  | bz x mask l => exact exists_hostBranch_eq_next h (· = 0) x
  | halt => exact ⟨_, rfl⟩

/-- The Host's turn with a well-formed program answers a next state, also past the program's end. -/
theorem exists_hostLineTurn_eq_next {s : State} (h : hostProgramWf s.host.program = true) :
    ∃ t, hostLineTurn s = .next t := by
  cases hln : s.host.program[s.host.pc]? with
  | none => exact ⟨s, by rw [hostLineTurn, hln]⟩
  | some ln =>
    obtain ⟨hlines, -⟩ := Bool.and_eq_true_iff.mp h
    rw [hostLineTurn_of_line hln]
    exact exists_execHostLine_eq_next (List.all_eq_true.mp hlines ln (List.mem_of_getElem? hln))

/-! ## The obligations -/

/-- Settles O16: acceptance latches the operands, which the OPA write after it does not reach, and the Engine's step is
the command's one. -/
theorem singleStepCommandRunsFromAcceptance : Obligations.SingleStepCommandRunsFromAcceptance := by
  intro s w x i ts hidle hw hi hsched
  have hsched1 : (s.afterAcceptance w).schedule = .host 0x10 (.write 8 x) :: .engine :: ts := congrArg List.tail hsched
  have hsched2 : ((s.afterAcceptance w).afterOpaWrite x).schedule = .engine :: ts := congrArg List.tail hsched1
  obtain ⟨code, res, hres, hstep3⟩ :=
    step_completes (s := (s.afterAcceptance w).afterOpaWrite x) hi (EngOp.ofWord_of_decode hw) (nextTurn_cons hsched2)
  refine ⟨_, _, _, step_accepts hidle (nextTurn_cons hsched), step_writes_opa (nextTurn_cons hsched1), hstep3,
    rfl, rfl, rfl, rfl, congrArg List.tail hsched2, rfl, rfl, ?_⟩
  change SingleStepResult i s.opa.toNat s.opb.toNat s.opc.toNat code res at hres
  cases i with
  | isprime | gcd | modinv => simpa [State.completed, SingleStepResult] using hres
  | keygen => exact absurd rfl hi
  | modexp => simpa [State.completed, SingleStepResult, ← BitVec.toNat_ne_iff_ne] using hres

/-- Settles O7: of the turns that reach OVR, a dropped write sets it, and an acceptance or a reset clears it. -/
theorem cmdWriteWhileBusyIsDropped : Obligations.CmdWriteWhileBusyIsDropped := by
  refine ⟨fun s v hbusy => hostAccess_cmd_of_busy hbusy v, fun s t h hset hclear => ?_⟩
  rcases step_cases h with ⟨hn, -⟩ | ⟨-, he⟩ | ⟨r, v, -, -, ht⟩ | ⟨-, -, -, ht⟩
  · exact .inl hn
  · have hkept : t.status.ovr = s.status.ovr := engineTurn_ovr (s := takeTurn s) he
    simp [hkept, hset] at hclear
  · rcases writeReg_ovr r v (s := takeTurn s) hset with haccept | hkept
    · exact .inr (ht ▸ haccept)
    · rw [ht] at hclear
      exact absurd hclear (by simp [hkept])
  · rw [ht] at hclear
    exact absurd hclear (by simp [hset])

/-- Settles O9: while BUSY = 1 an Engine step ends the command or consumes a draw. -/
theorem engineStepsExactlyWhenBusy : Obligations.EngineStepsExactlyWhenBusy := by
  refine fun s hinv => ⟨hinv.busy_iff, fun hidle => engineTurn_of_none (hinv.engOp_of_idle hidle), fun hself => ?_⟩
  by_contra hne
  have hbusy : s.status.busy = true := Bool.eq_true_of_not_eq_false hne
  exact engineTurn_ne_self hbusy (hinv.busy_iff.mp hbusy) hself

/-- Settles O10: of the turns other than a reset only the Engine's can clear BUSY, and it does so by completion. -/
theorem commandEndsOnlyByCompletionOrReset : Obligations.CommandEndsOnlyByCompletionOrReset := by
  intro s t h hbusy hidle
  rcases step_cases h with ⟨hn, -⟩ | ⟨hn, he⟩ | ⟨r, v, -, -, ht⟩ | ⟨-, -, -, ht⟩
  · exact .inl hn
  · rcases engineTurn_status he with hkept | ⟨-, hdone, hovr, hnone, hkg⟩
    · simp [hkept, hbusy] at hidle
    · obtain ⟨hcmd, -, -, -, hla, hlb, hlc, -⟩ := engineTurn_frame he
      exact .inr ⟨hn, hdone, hovr, hnone, hkg, hla, hlb, hlc, hcmd⟩
  · rcases writeReg_command r v (takeTurn s) with ⟨-, hidle', -⟩ | ⟨hkept, -⟩
    · simp [hbusy] at hidle'
    · rw [ht] at hidle
      simp [hkept, hbusy] at hidle
  · rw [ht] at hidle
    simp [hbusy] at hidle

/-- Settles O11: a step that changes a result without a reset completes a command without error. -/
theorem failedCommandWritesNoResult : Obligations.FailedCommandWritesNoResult := by
  intro s t h hreset hfail
  rcases step_results h with hkept | hn | ⟨-, -, hidle, -, herr⟩
  · exact hkept
  · exact absurd hn hreset
  · simp [hidle, herr] at hfail

/-- Settles O46: only the host program's turn can be refused, and a well-formed line is not. -/
theorem wellFormedProgramNeverStopsTheMachine : Obligations.WellFormedProgramNeverStopsTheMachine := by
  have hother : ∀ s : State, nextTurn s ≠ .hostLine → ∃ t, step s = .next t := fun s hn =>
    exists_runTurn_eq_next hn (takeTurn s)
  refine ⟨fun s f => ?_, hother, fun s hwf => ?_⟩
  · by_cases hn : nextTurn s = .hostLine
    · rw [step_eq, hn]
      exact hostLineTurn_ne_fault (takeTurn s) f
    · obtain ⟨t, ht⟩ := hother s hn
      rw [ht]
      nofun
  · obtain ⟨t, ht⟩ : ∃ t, step s = .next t := by
      by_cases hn : nextTurn s = .hostLine
      · rw [step_eq, hn]
        exact exists_hostLineTurn_eq_next hwf
      · exact hother s hn
    obtain ⟨-, hprogram⟩ := step_hostGrows ht
    exact ⟨t, ht, hprogram⟩

/-- Settles O5: withFetchWord's state is the accepted one, with the Engine's turn next. -/
theorem stepRunsTheDecodedCommand : Obligations.StepRunsTheDecodedCommand := by
  refine ⟨fun s i hn he => ?_, fun s w i hw => ?_⟩
  · exact (step_of_engine hn).trans (engineTurn_of_op he)
  · have hop : EngOp.ofWord w = .op i := EngOp.ofWord_of_decode hw
    rw [State.withFetchWord, tableWord_toNat, step_of_schedule_cons (ts := s.schedule) rfl]
    refine (engineTurn_of_op hop).trans ?_
    rw [← hop]
    rfl

/-- Settles O6: the write is acceptance as R201 says, and an operand write reaches no copy. -/
theorem cmdWriteIsAccepted : Obligations.CmdWriteIsAccepted := by
  refine ⟨fun s v hidle => hostAccess_cmd_of_idle hidle v, fun s hinv hidle => ?_, fun s off v hoff => ?_⟩
  · exact hinv.kg_idle (by simp [hinv.engOp_of_idle hidle])
  · rcases hoff with rfl | rfl | rfl <;> exact ⟨rfl, rfl, rfl, rfl⟩

end Sys2Proof.Machine
end

section
/-! PROOF. The family 70_reset_and_hazards.md: the reset input (R250), and operand writes while a command is in execution
(R262). -/

namespace Sys2Proof.Machine

/-! ## Reset (R250) -/

theorem step_of_reset {s : State} (hn : nextTurn s = .reset) : step s = .next (resetBlock (takeTurn s)) := by
  rw [step_eq, hn]
  rfl

/-- What a reset leaves of the block is the reset state's. -/
theorem sameBlock_resetBlock (s : State) : State.reset.SameBlock (resetBlock s) :=
  ⟨rfl, rfl, rfl, rfl, rfl, rfl, rfl, rfl, rfl, rfl, rfl, rfl, rfl⟩

/-! ## Operand writes during execution (R262) -/

/-- A Host write to an operand register is nothing to the Engine. -/
theorem engineBlind_operandWrite {off : Nat} (hoff : off = 0x10 ∨ off = 0x18 ∨ off = 0x20) (v : Word) :
    EngineBlind (hostAccess off (.write 8 v)) := by
  rcases hoff with rfl | rfl | rfl <;> constructor <;> intros <;> rfl

/-- The Engine's turn commutes with a Host write to an operand register, which keeps ENG_OP and the operands' copies
(O6's last clause). -/
theorem engineTurn_operandWrite {s t : State} {off : Nat} (hoff : off = 0x10 ∨ off = 0x18 ∨ off = 0x20) (v : Word)
    (h : engineTurn s = .next t) :
    engineTurn (hostAccess off (.write 8 v) s) = .next (hostAccess off (.write 8 v) t) := by
  obtain ⟨-, -, hkept⟩ := cmdWriteIsAccepted
  obtain ⟨hla, hlb, hlc, hop⟩ := hkept s off v hoff
  exact (engineBlind_operandWrite hoff v).engineTurn hop hla hlb hlc h

/-! ## The obligations -/

/-- Settles O14: the Engine is blind to the operand registers, and an acceptance copies them. -/
theorem preloadingDoesNotDisturbTheCommand : Obligations.PreloadingDoesNotDisturbTheCommand := by
  refine ⟨fun s t off v hoff h => engineTurn_operandWrite hoff v h, fun s a b c w hidle => ?_⟩
  have haccept := hostAccess_cmd_of_idle (s := hostAccess 0x20 (.write 8 c)
    (hostAccess 0x18 (.write 8 b) (hostAccess 0x10 (.write 8 a) s))) hidle w
  exact ⟨_, haccept, rfl, rfl, rfl, rfl, rfl, rfl⟩

/-- Settles O26: the reset turn leaves the reset block and keeps the environment's side. -/
theorem resetClearsTheBlock : Obligations.ResetClearsTheBlock := fun s hn =>
  ⟨_, step_of_reset hn, sameBlock_resetBlock (takeTurn s), rfl, rfl, rfl, rfl⟩

end Sys2Proof.Machine
end
